-- ==== Sys2Proof/Word.lean ====
section
/-! DEFINITION. The machine's words, bytes and byte strings (00_scope.md R10 to R12).
Only the types stand here; byte order and field helpers are in Machine/Bits.lean. -/

namespace Sys2Proof

/-- A byte (u8). -/
abbrev Byte := BitVec 8

/-- A data word (u32); its arithmetic is modulo 2^32 (00_scope.md R11). -/
abbrev Word := BitVec 32

/-- A byte string (00_scope.md R12): a finite sequence of bytes. -/
abbrev Bytes := List Byte

end Sys2Proof
end

