-- ==== Sys2Proof/Machine/Bits.lean ====
section
/-! DEFINITION. Byte order, words of a byte string and bits of a word (00_scope.md R10 to R12, 20_memory.md R66). -/

namespace Sys2Proof.Machine

/-- Four bytes, least significant first, as a word: the `LE32` of 00_scope.md R12. -/
def le32 (b0 b1 b2 b3 : Byte) : Word := b3 ++ b2 ++ b1 ++ b0

/-- Four bytes, most significant first, as a word: the `BE32` of 00_scope.md R12. -/
def be32 (b0 b1 b2 b3 : Byte) : Word := b0 ++ b1 ++ b2 ++ b3

/-- Byte `k` of a word, byte 0 being its least significant one. -/
def byteOfWord (w : Word) (k : Nat) : Byte := w.extractLsb' (8 * k) 8

/-- The four bytes of a word, least significant first. -/
def bytesOfWord (w : Word) : Bytes :=
  [byteOfWord w 0, byteOfWord w 1, byteOfWord w 2, byteOfWord w 3]

/-- `Words` of 00_scope.md R12: the whole little-endian words of a byte string, from its start. -/
def wordsOf : Bytes → List Word
  | b0 :: b1 :: b2 :: b3 :: rest => le32 b0 b1 b2 b3 :: wordsOf rest
  | _ => []

/-- `Unwords` of 00_scope.md R12: each word as four bytes, least significant first. -/
def unwords : List Word → Bytes
  | [] => []
  | w :: ws => bytesOfWord w ++ unwords ws

/-- The 0 to 3 bytes after the last whole word (42_cipher.md R186). -/
def tailOf (bs : Bytes) : Bytes := bs.drop (4 * (bs.length / 4))

/-- The value a little-endian bus access of these bytes carries, at most four of them (20_memory.md R67). -/
def leValue : Bytes → Word
  | [] => 0
  | b :: bs => (leValue bs <<< 8) ||| b.setWidth 32

/-- The first `n` bytes of a word, least significant first (20_memory.md R67). -/
def leBytes (w : Word) (n : Nat) : Bytes := (List.range n).map (byteOfWord w)

/-- Whether a flag word has any bit of the mask set. -/
def hasBits (w mask : Word) : Bool := w &&& mask != 0

end Sys2Proof.Machine
end

