-- ==== Sys2Proof/Config.lean ====
section
/-! DEFINITION. What an implementation fixes (00_scope.md R8) and the free values.
Parameters that are plain data are a `Params`, which State holds, so that every statement is about all of them;
the external codecs and the unspecified values are opaque constants: nothing can be proved of their values. -/

namespace Sys2Proof

/-- `P_CODEC_ORDER` (43_decompress.md R205): the order in which codec stages are undone. -/
inductive CodecOrder where
  | descending   -- the normative value
  | reference
  deriving DecidableEq, Repr

/-- `P_OFFSET_TABLE` (44_sector_reader.md R246): which sectored files carry a sector-offset table. -/
inductive OffsetTable where
  | always           -- the normative value
  | compressedOnly
  deriving DecidableEq, Repr

/-- The plain-data parameters of 00_scope.md R8. No step changes them. -/
structure Params where
  /-- `BUF_BYTES`: the size of IBUF and of OBUF. -/
  bufBytes    : Nat
  codecOrder  : CodecOrder
  offsetTable : OffsetTable
  deriving DecidableEq, Repr

/-- The parameters State.reset is given: the setting of the programs of 95_test_vectors.md section 4.
DESIGN CHOICE (log entry 1), unsafe for a statement that rests on these values: the spec fixes none of them. -/
def Params.reference : Params :=
  { bufBytes := 4096, codecOrder := .descending, offsetTable := .always }

/-- `CODEC_ZLIB` (43_decompress.md R214): input bytes and the most output a stage may produce; `none` is FAIL. This and the three
codecs below are opaque: DESIGN CHOICE, safe (log entry 2). -/
opaque Config.codecZlib : Bytes → Nat → Option Bytes

/-- `CODEC_BZIP2` (43_decompress.md R214). -/
opaque Config.codecBzip2 : Bytes → Nat → Option Bytes

/-- `CODEC_LZMA` (43_decompress.md R214). -/
opaque Config.codecLzma : Bytes → Nat → Option Bytes

/-- `CODEC_IMPLODE` (43_decompress.md R214). -/
opaque Config.codecImplode : Bytes → Nat → Option Bytes

/-- The free value behind every unspecified value a host read returns (10_state.md R32, R35, R39;
93_implementation_defined.md U1 to U3), applied to State's counter of draws (log entry 7). -/
opaque Config.draw : Nat → Word

/-- The free value behind `SRC_FAIL` (00_scope.md R8, 20_memory.md R64; 93_implementation_defined.md U5): the reads that fail in one
command, applied to State's counter of draws (log entry 4). -/
opaque Config.failing : Nat → List (Nat × Nat)

end Sys2Proof
end

