-- ==== Sys2Proof/Machine/State.lean ====
section
/-! DEFINITION. The machine's state (10_state.md), the events that drive it, its faults and refusals, and reset. -/

namespace Sys2Proof.Machine

/-- The status codes of 60_exceptions.md R280. No other code is ever written. -/
inductive Code where
  | ok
  | decodeError
  | unsupportedCodec
  | ioError
  | absent
  | deleted
  | illegalCommand
  | badArgument
  | outputOverflow
  deriving DecidableEq, Repr

/-- The fields of STATUS (10_state.md R26). Its reserved bits hold nothing: they read 0 and ignore writes. -/
structure Status where
  busy    : Bool
  done    : Bool
  err     : Code
  errSeen : Bool
  overrun : Bool
  deriving DecidableEq, Repr

/-- The fields of CTRL (10_state.md R27). Its reserved bits hold nothing: they read 0 and ignore writes. -/
structure Ctrl where
  ie : Bool
  deriving DecidableEq, Repr

/-- The bytes of a buffer that hold a value, keyed by their offset in the buffer, offsets strictly rising.
An offset that is not listed is unspecified: no value (10_state.md R35, R39; DESIGN CHOICE, safe, log entry 16). -/
abbrev Memory := List Host.Cell

/-- The hasher's internal state (10_state.md R36, 41_hasher.md R153). -/
structure Hasher where
  seed1 : Word
  seed2 : Word
  deriving DecidableEq, Repr

/-- The cipher's internal state (10_state.md R36, 42_cipher.md R180). -/
structure Cipher where
  key   : Word
  seed2 : Word
  deriving DecidableEq, Repr

/-- The sector reader's internal state (10_state.md R36, 44_sector_reader.md R245): the sector index, the offset
table and the stored bytes in hand. -/
structure Reader where
  sector  : Nat
  offsets : List Nat
  scratch : Bytes
  deriving DecidableEq, Repr

/-- The internal state of the units (10_state.md R36): a command's runs leave it here, its completion clears it. -/
structure Units where
  hasher : Hasher
  cipher : Cipher
  reader : Reader
  deriving DecidableEq, Repr

/-- The widths of a host bus access (20_memory.md R60). -/
inductive Width where
  | byte
  | half
  | word
  deriving DecidableEq, Repr

/-- What happens next outside the core's own work. The list of these in State is the model's (log entry 3): it says in which
order the host's accesses and the completion of a command fall, which 20_memory.md R70 leaves open. -/
inductive Event where
  /-- `MemRead(off, w)` by the host (20_memory.md R60). -/
  | read (off : Nat) (w : Width)
  /-- `MemWrite(off, w, v)` by the host (20_memory.md R60). -/
  | write (off : Nat) (w : Width) (v : Word)
  /-- `MemWrite` of the value the host's previous read returned (the second access of `mvres`, 30_encoding.md R112;
  the copy of 70_reset_and_hazards.md R326). -/
  | writeBack (off : Nat) (w : Width)
  /-- `wait` (30_encoding.md R110): the host reads STATUS until BUSY is 0. -/
  | poll
  /-- A step of time without a host access; with these before a `complete`, every `LATENCY` can be said (00_scope.md R8). -/
  | tick
  /-- The command in progress, if there is one, completes in this step (10_state.md R33). -/
  | complete
  /-- The reset input is asserted (70_reset_and_hazards.md R320). -/
  | reset
  /-- The host attaches a byte source: its bytes, and for the commands to come, first one first, the reads that will fail although in
  range (20_memory.md R64). -/
  | attach (src : Bytes) (fails : List (List (Nat × Nat)))
  deriving DecidableEq, Repr

/-- What the bus answered to the host's last access. -/
inductive BusReply where
  | none               -- no access yet
  | value (v : Word)   -- a read's value
  | done               -- a write that ended without a bus error
  | busError           -- 20_memory.md R63
  deriving DecidableEq, Repr

/-- The machine. The first group (to `units`) is what the spec gives it; the second (`cfg`, `src`, `srcFail`) its parameters and its
byte source (00_scope.md R8); the rest is the model's own. `srcFail` lists the reads that fail for the command last accepted, `srcDraws`
the same for the commands to come (93_implementation_defined.md U5; log entry 4). -/
structure State where
  cmd      : Word
  status   : Status
  ctrl     : Ctrl
  arg0     : Word
  arg1     : Word
  arg2     : Word
  arg3     : Word
  arg4     : Word
  arg5     : Word
  res0     : Word
  res1     : Word
  res2     : Word
  ibuf     : Memory
  obuf     : Memory
  units    : Units
  cfg      : Params
  src      : Bytes
  srcFail  : List (Nat × Nat)
  srcDraws : List (List (Nat × Nat))
  sched    : List Event
  reply    : BusReply
  lastRead : Word
  draws    : Nat
  deriving DecidableEq, Repr

/-- Why the machine stops. -/
inductive Fault where
  /-- A command whose operand range covers an IBUF byte that nothing has written since reset: a fault of the host program
  (10_state.md R39, 93_implementation_defined.md U3). Raised by HASH, HASH3, FKEY, DECRYPT, ENCRYPT and DECOMP, after their
  operand checks. Safe: the model stops where the hardware would read some value (log entry 6). -/
  | unwrittenInput
  deriving DecidableEq, Repr

/-- What the model gives no meaning. -/
inductive Refusal where
  /-- An instruction without a meaning yet; raised by exec's arms only. Safe. -/
  | notModelled (mnemonic : String)
  /-- The host changes the byte source while a command is in progress; outside the model by 20_memory.md R65 and
  93_implementation_defined.md U6. Raised by the step that attaches a byte source. Safe (log entry 5). -/
  | sourceChangedInCommand
  /-- The host attaches a byte source of more than 2^32 bytes, which is no legal value of SRC (00_scope.md R8). Raised by the step that
  attaches a byte source. Safe (log entry 22). -/
  | sourceTooLong
  deriving DecidableEq, Repr

/-- The units while no command runs: after reset undefined and unused (10_state.md R39), after a command nothing of it survives
(10_state.md R36). DESIGN CHOICE zero and empty (log entry 11). -/
def Units.cleared : Units :=
  { hasher := { seed1 := 0, seed2 := 0 }
    cipher := { key := 0, seed2 := 0 }
    reader := { sector := 0, offsets := [], scratch := [] } }

/-- STATUS after reset (10_state.md R39): 0x00000000. -/
def Status.cleared : Status :=
  { busy := false, done := false, err := .ok, errSeen := false, overrun := false }

/-- The machine right after reset (10_state.md R39), with the parameters of `Params.reference` (log entry 1), no byte
source attached (log entry 4) and no event to come (log entry 3). -/
def State.reset : State :=
  { cmd := 0
    status := Status.cleared
    ctrl := { ie := false }
    arg0 := 0
    arg1 := 0
    arg2 := 0
    arg3 := 0
    arg4 := 0
    arg5 := 0
    res0 := 0
    res1 := 0
    res2 := 0
    ibuf := []
    obuf := []
    units := Units.cleared
    cfg := Params.reference
    src := []
    srcFail := []
    srcDraws := []
    sched := []
    reply := .none
    lastRead := 0
    draws := 0 }

end Sys2Proof.Machine
end

