-- ==== Sys2Proof/Machine/Flags.lean ====
section
/-! DEFINITION. STATUS and CTRL as words, the status codes' numbers, the interrupt output, and the flag word of a
block entry (10_state.md R26, R27; 60_exceptions.md R280, R290; 30_encoding.md R100). -/

namespace Sys2Proof.Machine

/-- The number of a status code (60_exceptions.md R280). -/
def Code.toByte : Code → Byte
  | .ok => 0x00
  | .decodeError => 0x01
  | .unsupportedCodec => 0x02
  | .ioError => 0x03
  | .absent => 0x04
  | .deleted => 0x05
  | .illegalCommand => 0x06
  | .badArgument => 0x07
  | .outputOverflow => 0x08

/-- STATUS as the host reads it (10_state.md R26): OVERRUN, ERRSEEN, ERR, six reserved zeros, DONE, BUSY. -/
def Status.toWord (st : Status) : Word :=
  (0 : BitVec 14) ++ BitVec.ofBool st.overrun ++ BitVec.ofBool st.errSeen ++ st.err.toByte
    ++ (0 : BitVec 6) ++ BitVec.ofBool st.done ++ BitVec.ofBool st.busy

/-- STATUS after a host write of `v` (10_state.md R26): bit 1 set clears DONE; nothing else is writable. -/
def Status.written (st : Status) (v : Word) : Status :=
  if v.getLsbD 1 then { st with done := false } else st

/-- STATUS when a command is accepted (10_state.md R28): BUSY set, DONE cleared, ERR kept. -/
def Status.accepted (st : Status) : Status := { st with busy := true, done := false }

/-- STATUS when a command completes with this code (10_state.md R33). -/
def Status.completed (st : Status) (code : Code) : Status :=
  { st with busy := false, done := true, err := code, errSeen := st.errSeen || code != .ok }

/-- STATUS when a host write is dropped (10_state.md R31). -/
def Status.dropped (st : Status) : Status := { st with overrun := true }

/-- CTRL as the host reads it (10_state.md R27). -/
def Ctrl.toWord (c : Ctrl) : Word := (0 : BitVec 31) ++ BitVec.ofBool c.ie

/-- CTRL after a host write of `v` (10_state.md R27): bit 0 is IE; the reserved bits ignore the write. -/
def Ctrl.written (_c : Ctrl) (v : Word) : Ctrl := { ie := v.getLsbD 0 }

/-- The interrupt output (60_exceptions.md R290). -/
def State.irq (s : State) : Bool := s.status.done && s.ctrl.ie

/-- IMPLODED (30_encoding.md R100). -/
def flagImploded (f : Word) : Bool := hasBits f 0x00000100

/-- COMPRESSED (30_encoding.md R100). -/
def flagCompressed (f : Word) : Bool := hasBits f 0x00000200

/-- ENCRYPTED (30_encoding.md R100). -/
def flagEncrypted (f : Word) : Bool := hasBits f 0x00010000

/-- ADJUSTED_KEY (30_encoding.md R100). -/
def flagAdjustedKey (f : Word) : Bool := hasBits f 0x00020000

/-- SINGLE_UNIT (30_encoding.md R100). -/
def flagSingleUnit (f : Word) : Bool := hasBits f 0x01000000

/-- DELETE_MARKER (30_encoding.md R100). -/
def flagDeleteMarker (f : Word) : Bool := hasBits f 0x02000000

/-- EXISTS (30_encoding.md R100). -/
def flagExists (f : Word) : Bool := hasBits f 0x80000000

end Sys2Proof.Machine
end

