-- ==== Sys2Proof/Machine/Ops.lean ====
section
/-! DEFINITION. The named operations over buffers, registers and the byte source, and a command's two shared ends:
its acceptance and its completion with a status code, the core's nearest equivalent of taking an exception
(60_exceptions.md R281, R292: there is no trap entry and no return from one). -/

namespace Sys2Proof.Machine

/-- What a step answers. -/
abbrev Result := Host.Outcome State Fault Refusal

/-- The value of a buffer's byte, `none` where it is unspecified. -/
def Memory.read : Memory → Nat → Option Byte
  | [], _ => none
  | c :: m, a => if c.1 = a then some c.2 else Memory.read m a

/-- The buffer with one byte written; the offsets stay strictly rising. -/
def Memory.write : Memory → Nat → Byte → Memory
  | [], a, b => [(a, b)]
  | c :: m, a, b =>
    if a < c.1 then (a, b) :: c :: m
    else if a = c.1 then (a, b) :: m
    else c :: Memory.write m a b

/-- The buffer with the bytes written from offset `a` up. -/
def Memory.writeBytes (m : Memory) (a : Nat) : Bytes → Memory
  | [] => m
  | b :: bs => Memory.writeBytes (m.write a b) (a + 1) bs

/-- The bytes `[a, a + n)` of a buffer, `none` if any of them is unspecified. -/
def Memory.readBytes (m : Memory) (a : Nat) : Nat → Option Bytes
  | 0 => some []
  | n + 1 =>
    match m.read a, Memory.readBytes m (a + 1) n with
    | some b, some bs => some (b :: bs)
    | _, _ => none

/-- A buffer that holds exactly these bytes from offset `a` up, all else unspecified (10_state.md R35). -/
def Memory.ofBytes (a : Nat) : Bytes → Memory
  | [] => []
  | b :: bs => (a, b) :: Memory.ofBytes (a + 1) bs

/-- The canonical form: offsets strictly rising. -/
def Memory.wf : Memory → Bool
  | [] => true
  | [_] => true
  | c :: d :: m => decide (c.1 < d.1) && Memory.wf (d :: m)

/-- `SrcRead(a, n)` (20_memory.md R64): `n` bytes of the byte source from address `a`, both in Z. -/
def srcRead (src : Bytes) (fails : List (Nat × Nat)) (a n : Nat) : Except Code Bytes :=
  if n = 0 then .ok []
  else if a + n > src.length then .error .ioError
  else if (a, n) ∈ fails then .error .ioError
  else .ok ((src.drop a).take n)

/-- Acceptance of a command word (10_state.md R28, R25): CMD, STATUS, and the results cleared. Which byte-source reads fail in this
command is drawn here, the next listed set or a free one; no command asks for the same read twice, so a set per command is a draw per
read (93_implementation_defined.md U5; DEDUCED, safe, log entry 4). -/
def State.accept (v : Word) (s : State) : State :=
  { s with
    cmd := v, status := s.status.accepted, res0 := 0, res1 := 0, res2 := 0
    srcFail := s.srcDraws.headD (Config.failing s.draws), srcDraws := s.srcDraws.tail, draws := s.draws + 1 }

/-- A host write dropped while a command is in progress (10_state.md R31). -/
def State.dropWrite (s : State) : State := { s with status := s.status.dropped }

/-- Completion with a status code (10_state.md R33; the results stay as acceptance left them, DEDUCED, log entry 9); for a code other than OK this is all that
60_exceptions.md R281 records. Nothing of the units survives the command (10_state.md R36, R37; 20_memory.md R74; log entry 11). -/
def State.complete (code : Code) (s : State) : State :=
  { s with status := s.status.completed code, units := Units.cleared }

/-- Completion with an error of a command that writes OBUF: all of OBUF is unspecified (60_exceptions.md R281). -/
def State.completeError (code : Code) (s : State) : State := ({ s with obuf := [] }).complete code

/-- Completion with OK of a command whose result is `out` in OBUF and whose RES0 is `len` (10_state.md R33, R35):
the bytes of OBUF beyond the result are unspecified. -/
def State.completeOutput (len : Word) (out : Bytes) (s : State) : State :=
  ({ s with obuf := Memory.ofBytes 0 out, res0 := len }).complete .ok

/-- The core's state after the reset input is asserted (70_reset_and_hazards.md R320, 10_state.md R39). What is not the core's
stays: the parameters, the byte source, the events to come, what the host last read, the counter of draws (DEDUCED, unsafe;
log entry 19). -/
def State.resetCore (s : State) : State :=
  { State.reset with
    cfg := s.cfg, src := s.src, srcFail := s.srcFail, srcDraws := s.srcDraws, sched := s.sched, lastRead := s.lastRead,
    draws := s.draws }

end Sys2Proof.Machine
end

