-- ==== Sys2Proof/Machine/Bus.lean ====
section
/-! DEFINITION. Host bus accesses (20_memory.md R60 to R63, R67, R69; 10_state.md R23 to R32). -/

namespace Sys2Proof.Machine

/-- The bytes an access of this width covers (20_memory.md R60). -/
def Width.bytes : Width → Nat
  | .byte => 1
  | .half => 2
  | .word => 4

/-- Where a legal access goes (20_memory.md R61). -/
inductive Place where
  | register (off : Nat)
  | ctEntry (i : Nat)
  | ibuf (i : Nat)
  | obuf (i : Nat)
  deriving DecidableEq, Repr

/-- The place of an access, `none` where the map has none: unmapped, of a width the region does not allow, not naturally aligned, or
past the last byte of a buffer (20_memory.md R61, R63). -/
def placeOf (cfg : Params) (off : Nat) (w : Width) : Option Place :=
  if off % w.bytes ≠ 0 then none
  else if off < 0x100 then (if w = .word then some (.register off) else none)
  else if 0x1000 ≤ off ∧ off < 0x2400 then (if w = .word then some (.ctEntry ((off - 0x1000) / 4)) else none)
  else if 0x10000 ≤ off ∧ off + w.bytes ≤ 0x10000 + cfg.bufBytes then some (.ibuf (off - 0x10000))
  else if 0x20000 ≤ off ∧ off + w.bytes ≤ 0x20000 + cfg.bufBytes then some (.obuf (off - 0x20000))
  else none

/-- An unspecified byte: the `k`-th draw (log entry 7). -/
def drawByte (k : Nat) : Byte := (Config.draw k).setWidth 8

/-- A register's value as the host reads it while no unspecified value is involved (10_state.md R23); reserved offsets read 0. -/
def State.readRegister (s : State) (off : Nat) : Word :=
  match off with
  | 0x000 => s.cmd
  | 0x004 => s.status.toWord
  | 0x008 => s.ctrl.toWord
  | 0x010 => s.arg0
  | 0x014 => s.arg1
  | 0x018 => s.arg2
  | 0x01C => s.arg3
  | 0x020 => s.arg4
  | 0x024 => s.arg5
  | 0x040 => s.res0
  | 0x044 => s.res1
  | 0x048 => s.res2
  | _ => 0

/-- The result registers' offsets (10_state.md R23). -/
def isResult (off : Nat) : Bool := off == 0x040 || off == 0x044 || off == 0x048

/-- `n` bytes of a buffer from offset `i` as the host reads them: an unspecified byte is a draw (10_state.md R35, R39; log entry 7). -/
def readDrawn (m : Memory) (i k : Nat) : Nat → Bytes
  | 0 => []
  | n + 1 => (m.read i).getD (drawByte k) :: readDrawn m (i + 1) (k + 1) n

/-- The value a host read of this place returns. RES and OBUF are unspecified while a command is in progress: a fresh draw
(10_state.md R32). -/
def State.valueAt (s : State) (p : Place) (w : Width) : Word :=
  match p with
  | .register off => if s.status.busy && isResult off then Config.draw s.draws else s.readRegister off
  | .ctEntry i => ctRom i
  | .ibuf i => leValue (readDrawn s.ibuf i s.draws w.bytes)
  | .obuf i => leValue (readDrawn (if s.status.busy then [] else s.obuf) i s.draws w.bytes)

/-- A host read (20_memory.md R60, R63, R69): it changes nothing in the core. -/
def State.busRead (off : Nat) (w : Width) (s : State) : State :=
  match placeOf s.cfg off w with
  | none => { s with reply := .busError }
  | some p =>
    { s with reply := .value (s.valueAt p w), lastRead := s.valueAt p w, draws := s.draws + w.bytes }

/-- A host write of an operand register or of CMD (10_state.md R28, R31): dropped while a command is in progress. -/
def State.unlessBusy (s : State) (t : State) : State := if s.status.busy then s.dropWrite else t

/-- A host write of a register (10_state.md R23 to R31): results and reserved offsets ignore it, busy or not (DEDUCED, unsafe;
log entry 20). -/
def State.writeRegister (s : State) (off : Nat) (v : Word) : State :=
  match off with
  | 0x000 => s.unlessBusy (s.accept v)
  | 0x004 => { s with status := s.status.written v }
  | 0x008 => { s with ctrl := s.ctrl.written v }
  | 0x010 => s.unlessBusy { s with arg0 := v }
  | 0x014 => s.unlessBusy { s with arg1 := v }
  | 0x018 => s.unlessBusy { s with arg2 := v }
  | 0x01C => s.unlessBusy { s with arg3 := v }
  | 0x020 => s.unlessBusy { s with arg4 := v }
  | 0x024 => s.unlessBusy { s with arg5 := v }
  | _ => s

/-- A host write (20_memory.md R60, R63, R67): a write to the CT window or to OBUF is a bus error. A bus error comes before the busy
lock (DEDUCED, unsafe; log entry 12). -/
def State.busWrite (off : Nat) (w : Width) (v : Word) (s : State) : State :=
  match placeOf s.cfg off w with
  | some (.register r) => { s.writeRegister r v with reply := .done }
  | some (.ibuf i) =>
    { s.unlessBusy { s with ibuf := s.ibuf.writeBytes i (leBytes v w.bytes) } with reply := .done }
  | some (.ctEntry _) | some (.obuf _) | none => { s with reply := .busError }

end Sys2Proof.Machine
end

