-- ==== Sys2Proof/Syntax.lean ====
section
/-! DEFINITION. The commands: one constructor of `Instr` per row of spec/opcode_table.json, and the fields of a
command word (30_encoding.md R90 to R93). No command carries an operand in its word. -/

namespace Sys2Proof

/-- The four hash kinds (41_hasher.md R152). -/
inductive HashKind where
  | tableOffset
  | nameA
  | nameB
  | fileKey
  deriving DecidableEq, Repr

/-- The operation codes of 30_encoding.md R92. -/
inductive Opcode where
  | ctrd
  | hash
  | hash3
  | fkey
  | decrypt
  | encrypt
  | decomp
  | rdfile
  deriving DecidableEq, Repr

/-- The instructions: the eleven command words of 30_encoding.md R111. -/
inductive Instr where
  | ctrd
  | hashOffset
  | hashNameA
  | hashNameB
  | hashFileKey
  | hash3
  | fkey
  | decrypt
  | encrypt
  | decomp
  | rdfile
  deriving DecidableEq, Repr

/-- The three fields of a command word (30_encoding.md R90). -/
structure CmdFields where
  opc  : BitVec 8
  kind : BitVec 2
  rsvd : BitVec 22
  deriving DecidableEq, Repr

end Sys2Proof
end

