-- ==== Sys2Proof/WellFormed.lean ====
section
/-! DEFINITION. Which command words and which parameters are legal (30_encoding.md R90, R106; 00_scope.md R8).
A constructor of `Instr` has no operand, so what can be ill-formed is the fields of a command word. -/

namespace Sys2Proof

/-- Reserved bits are zero (30_encoding.md R90). -/
def CmdFields.reservedZero (f : CmdFields) : Bool := f.rsvd == 0

/-- The operation code is one of 0x01 to 0x08 (30_encoding.md R91, R92). -/
def CmdFields.knownOpcode (f : CmdFields) : Bool := decide (1 ≤ f.opc.toNat ∧ f.opc.toNat ≤ 8)

/-- Only HASH may have a hash kind other than 0 (30_encoding.md R90). -/
def CmdFields.kindAllowed (f : CmdFields) : Bool := f.opc == 2 || f.kind == 0

/-- A legal command word's fields (30_encoding.md R106). -/
def CmdFields.wellFormed (f : CmdFields) : Bool := f.reservedZero && f.knownOpcode && f.kindAllowed

/-- `BUF_BYTES` is a power of two, 4 to 65536 (00_scope.md R8); the other parameters are legal by their types. -/
def Params.wellFormed (p : Params) : Bool :=
  decide (4 ≤ p.bufBytes ∧ p.bufBytes ≤ 65536) && (2 ^ p.bufBytes.log2 == p.bufBytes)

end Sys2Proof
end

