-- ==== Sys2Proof/Decode.lean ====
section
/-! DEFINITION. Decoding of a command word, rejecting by name, and the encoder (30_encoding.md R90 to R93, R106, R111). -/

namespace Sys2Proof

/-- Why bits are no command (30_encoding.md R106). -/
inductive DecodeError where
  | reservedBits    -- a non-zero bit in 31:10
  | unknownOpcode   -- OPC 0x00 or 0x09 to 0xFF
  | kindNotZero     -- KIND set with an OPC other than HASH
  | truncated       -- fewer bytes than the four of a command word
  deriving DecidableEq, Repr

/-- The fields of a command word (30_encoding.md R90): OPC 7:0, KIND 9:8, RSVD 31:10. -/
def fieldsOf (v : Word) : CmdFields :=
  { opc := v.extractLsb' 0 8, kind := v.extractLsb' 8 2, rsvd := v.extractLsb' 10 22 }

/-- The command word made of these fields (30_encoding.md R90). -/
def wordOf (f : CmdFields) : Word := f.rsvd ++ f.kind ++ f.opc

/-- The opcode map (30_encoding.md R92). -/
def opcodeOf (opc : BitVec 8) : Option Opcode :=
  match opc.toNat with
  | 1 => some .ctrd
  | 2 => some .hash
  | 3 => some .hash3
  | 4 => some .fkey
  | 5 => some .decrypt
  | 6 => some .encrypt
  | 7 => some .decomp
  | 8 => some .rdfile
  | _ => none

/-- The HASH instruction of a KIND field (30_encoding.md R93). -/
def hashInstr (kind : BitVec 2) : Instr :=
  match kind.toNat with
  | 0 => .hashOffset
  | 1 => .hashNameA
  | 2 => .hashNameB
  | _ => .hashFileKey

/-- The instruction of an operation code whose KIND field is `kind` (30_encoding.md R92, R93). -/
def instrOf (op : Opcode) (kind : BitVec 2) : Instr :=
  match op with
  | .ctrd => .ctrd
  | .hash => hashInstr kind
  | .hash3 => .hash3
  | .fkey => .fkey
  | .decrypt => .decrypt
  | .encrypt => .encrypt
  | .decomp => .decomp
  | .rdfile => .rdfile

/-- The decoder on a command word's fields: the checks of 30_encoding.md R91, in that order. -/
def decodeFields (f : CmdFields) : Except DecodeError Instr :=
  if f.rsvd ≠ 0 then .error .reservedBits
  else match opcodeOf f.opc with
    | none => .error .unknownOpcode
    | some op => if op ≠ .hash ∧ f.kind ≠ 0 then .error .kindNotZero else .ok (instrOf op f.kind)

/-- Decoding of an accepted command word (30_encoding.md R91). -/
def decodeWord (v : Word) : Except DecodeError Instr := decodeFields (fieldsOf v)

/-- Decoding of a command word laid out as bytes, least significant first (20_memory.md R67): the
instruction and the bytes after it. -/
def decodeBytes : Bytes → Except DecodeError (Instr × Bytes)
  | b0 :: b1 :: b2 :: b3 :: rest =>
    match decodeWord (Machine.le32 b0 b1 b2 b3) with
    | .ok i => .ok (i, rest)
    | .error e => .error e
  | _ => .error .truncated

/-- The OPC field of an instruction's word (30_encoding.md R92). -/
def opcField : Instr → BitVec 8
  | .ctrd => 0x01
  | .hashOffset => 0x02
  | .hashNameA => 0x02
  | .hashNameB => 0x02
  | .hashFileKey => 0x02
  | .hash3 => 0x03
  | .fkey => 0x04
  | .decrypt => 0x05
  | .encrypt => 0x06
  | .decomp => 0x07
  | .rdfile => 0x08

/-- The KIND field of an instruction's word (30_encoding.md R93): 0 unless it is a HASH. -/
def kindField : Instr → BitVec 2
  | .hashNameA => 1
  | .hashNameB => 2
  | .hashFileKey => 3
  | .ctrd | .hashOffset | .hash3 | .fkey | .decrypt | .encrypt | .decomp | .rdfile => 0

/-- The fields of an instruction's word. -/
def instrFields (i : Instr) : CmdFields := { opc := opcField i, kind := kindField i, rsvd := 0 }

/-- The command word of an instruction (30_encoding.md R90, R111). -/
def encode (i : Instr) : Word := wordOf (instrFields i)

/-- The bytes of an instruction's word as a little-endian bus carries them (20_memory.md R67). -/
def encodeBytes (i : Instr) : Bytes := Machine.bytesOfWord (encode i)

/-- What the decoder reads from the bits `w` of an opcode-table row of `nbits` bits. A command word is exactly 32 bits
(30_encoding.md R90): bits above `nbits` are zero, and a number of more than 32 bits is no command word. -/
def decodeTableWord (nbits w : Nat) : Option Instr :=
  let v := w % 2 ^ nbits
  if v < 2 ^ 32 then
    match decodeBytes (Machine.bytesOfWord (BitVec.ofNat 32 v)) with
    | .ok (i, _) => some i
    | .error _ => none
  else none

end Sys2Proof
end

