-- ==== Sys2Proof/Machine/CtRead.lean ====
section
/-! DEFINITION. CTRD (40_crypto_table.md R133). -/

namespace Sys2Proof.Machine

/-- CTRD (40_crypto_table.md R133): RES0 is the CT entry ARG0 names; BAD_ARGUMENT when there is no such entry. -/
def execCtrd (s : State) : Result :=
  if s.arg0.toNat ≥ ctDepth then .next (s.complete .badArgument)
  else .next (({ s with res0 := ctRom s.arg0.toNat }).complete .ok)

end Sys2Proof.Machine
end

