-- ==== Sys2Proof/Machine/Operands.lean ====
section
/-! DEFINITION. The operands of the commands (30_encoding.md R94): lengths in ARG0, the input in IBUF from byte 0 up. -/

namespace Sys2Proof.Machine

/-- The input `IBUF[0..n)` (10_state.md R34), `none` if a byte of it was never written. -/
def State.input (s : State) (n : Nat) : Option Bytes := s.ibuf.readBytes 0 n

/-- A command goes on with its input `IBUF[0..n)`; where nothing has written one of those bytes since reset, that is a fault of the host
program (10_state.md R39, 93_implementation_defined.md U3). -/
def State.withInput (s : State) (n : Nat) (k : Bytes → Result) : Result :=
  match s.input n with
  | some bs => k bs
  | none => .fault .unwrittenInput

/-- The path commands' input (41_hasher.md R150, R155): BAD_ARGUMENT when ARG0 is more than BUF_BYTES, before IBUF is read. -/
def State.withPath (s : State) (k : Bytes → State) : Result :=
  if s.arg0.toNat > s.cfg.bufBytes then .next (s.complete .badArgument)
  else s.withInput s.arg0.toNat fun p => .next (k p)

end Sys2Proof.Machine
end

