-- ==== Sys2Proof/Machine/Decompress.lean ====
section
/-! DEFINITION. The sector decoder, the codec pipeline, and DECOMP (43_decompress.md). -/

namespace Sys2Proof.Machine

/-- The codecs of the pipeline (43_decompress.md R204). -/
inductive Codec where
  | sparse
  | bzip2
  | implode
  | zlib
  | lzma
  deriving DecidableEq, Repr

/-- The chunk loop of the sparse codec (43_decompress.md R212): `fuel` bounds the number of chunks, `n` is the declared
length, and the output so far is `out`. Every chunk takes a byte at least, so fuel equal to the stream's length is never short
(DEDUCED, safe; log entry 21). -/
def sparseLoop (n : Nat) : Nat → Bytes → Bytes → Option Bytes
  | _, [], out => if out.length = n then some out else none
  | 0, _ :: _, _ => none
  | fuel + 1, c :: rest, out =>
    let k := (c &&& 0x7F).toNat
    if c &&& 0x80 ≠ 0 then
      if k + 1 > rest.length then none
      else
        let out' := out ++ rest.take (k + 1)
        if out'.length > n then none else sparseLoop n fuel (rest.drop (k + 1)) out'
    else
      let out' := out ++ List.replicate (k + 3) 0
      if out'.length > n then none else sparseLoop n fuel rest out'

/-- `Sparse(D, E)` (43_decompress.md R210 to R212), which does not look at E; `none` is FAIL. -/
def sparse : Bytes → Option Bytes
  | b0 :: b1 :: b2 :: b3 :: rest => sparseLoop (be32 b0 b1 b2 b3).toNat rest.length rest []
  | _ => none

/-- A codec on its input, with the most output it may produce; `none` is FAIL (43_decompress.md R206, R210, R214). -/
def codecRun (c : Codec) (d : Bytes) (e : Nat) : Option Bytes :=
  match c with
  | .sparse => sparse d
  | .bzip2 => Config.codecBzip2 d e
  | .implode => Config.codecImplode d e
  | .zlib => Config.codecZlib d e
  | .lzma => Config.codecLzma d e

/-- The codec byte's bit of a codec (30_encoding.md R101); LZMA has none, it is the whole byte 0x12. -/
def codecBit : Codec → Byte
  | .sparse => 0x20
  | .bzip2 => 0x10
  | .implode => 0x08
  | .zlib => 0x02
  | .lzma => 0x00

/-- The order in which stages are undone (43_decompress.md R205). -/
def codecsInOrder : CodecOrder → List Codec
  | .descending => [.sparse, .bzip2, .implode, .zlib]
  | .reference => [.bzip2, .implode, .zlib, .sparse]

/-- The stages of a codec byte (43_decompress.md R204): 0x12 is LZMA whole, an unrecognised bit is UNSUPPORTED_CODEC, and else the
codecs whose bits are set, in order. -/
def stages (order : CodecOrder) (cb : Byte) : Except Code (List Codec) :=
  if cb = 0x12 then .ok [.lzma]
  else if cb &&& 0xC5 ≠ 0 then .error .unsupportedCodec
  else .ok ((codecsInOrder order).filter fun c => cb &&& codecBit c != 0)

/-- `Stage(C, D, E)` (43_decompress.md R206): FAIL, or more output than E, is DECODE_ERROR. -/
def stage (c : Codec) (d : Bytes) (e : Nat) : Except Code Bytes :=
  match codecRun c d e with
  | none => .error .decodeError
  | some r => if r.length > e then .error .decodeError else .ok r

/-- The stages run in order (43_decompress.md R206). -/
def runStages : List Codec → Bytes → Nat → Except Code Bytes
  | [], d, _ => .ok d
  | c :: cs, d, e =>
    match stage c d e with
    | .error x => .error x
    | .ok r => runStages cs r e

/-- `CodecBytePath(R, E)` (43_decompress.md R203 to R206). -/
def codecBytePath (order : CodecOrder) (r : Bytes) (e : Nat) : Except Code Bytes :=
  match r with
  | [] => .error .decodeError
  | cb :: d =>
    match stages order cb with
    | .error x => .error x
    | .ok cs => runStages cs d e

/-- The path the flag word selects (43_decompress.md R202); COMPRESSED governs when both flags are set. -/
def flagPath (order : CodecOrder) (r : Bytes) (e : Nat) (f : Word) : Except Code Bytes :=
  if flagCompressed f then codecBytePath order r e
  else if flagImploded f then stage .implode r e
  else .ok r

/-- `FinalCheck(D, E)` (43_decompress.md R207). -/
def finalCheck (d : Bytes) (e : Nat) : Except Code Bytes := if d.length ≠ e then .error .decodeError else .ok d

/-- `DecodeSector(R, E, F)` (43_decompress.md R200 to R207): a stored sector is returned unchanged, whatever F holds. -/
def decodeSector (order : CodecOrder) (r : Bytes) (e : Nat) (f : Word) : Except Code Bytes :=
  if r.length = e then .ok r
  else
    match flagPath order r e f with
    | .error x => .error x
    | .ok d => finalCheck d e

/-- DECOMP (43_decompress.md R216). -/
def execDecomp (s : State) : Result :=
  if s.arg0.toNat > s.cfg.bufBytes then .next (s.completeError .badArgument)
  else if s.arg3.toNat > s.cfg.bufBytes then .next (s.completeError .outputOverflow)
  else s.withInput s.arg0.toNat fun bs =>
    match decodeSector s.cfg.codecOrder bs s.arg3.toNat s.arg4 with
    | .error x => .next (s.completeError x)
    | .ok out => .next (s.completeOutput s.arg3 out)

end Sys2Proof.Machine
end

