-- ==== Sys2Proof/Machine/PathHash.lean ====
section
/-! DEFINITION. The path hasher and its commands HASH, HASH3 and FKEY (41_hasher.md). -/

namespace Sys2Proof.Machine

/-- Normalisation of one byte (41_hasher.md R151): 'a'..'z' to 'A'..'Z', '/' to the backslash. -/
def normByte (b : Byte) : Byte :=
  if 0x61 ≤ b.toNat ∧ b.toNat ≤ 0x7A then b - 0x20
  else if b = 0x2F then 0x5C
  else b

/-- Normalisation of a path (41_hasher.md R151). -/
def normPath (p : Bytes) : Bytes := p.map normByte

/-- The number of a hash kind (41_hasher.md R152). -/
def kindNumber : HashKind → Nat
  | .tableOffset => 0
  | .nameA => 1
  | .nameB => 2
  | .fileKey => 3

/-- The seeds every hash starts from (41_hasher.md R153). -/
def hasherStart : Hasher := { seed1 := 0x7FED7FED, seed2 := 0xEEEEEEEE }

/-- One normalised character (41_hasher.md R153): the new seed2 uses the new seed1 and the old seed2. -/
def hasherFeed (kind : HashKind) (h : Hasher) (ch : Byte) : Hasher :=
  let seed1 := ctRom (kindNumber kind * 256 + ch.toNat) ^^^ (h.seed1 + h.seed2)
  { seed1 := seed1, seed2 := ch.setWidth 32 + seed1 + h.seed2 + (h.seed2 <<< 5) + 3 }

/-- The hasher after a whole path (41_hasher.md R153). -/
def hasherRun (kind : HashKind) (p : Bytes) : Hasher := (normPath p).foldl (hasherFeed kind) hasherStart

/-- `Hash(P, kind)` (41_hasher.md R153). -/
def pathHash (kind : HashKind) (p : Bytes) : Word := (hasherRun kind p).seed1

/-- The two separators (41_hasher.md R158). -/
def isSeparator (b : Byte) : Bool := b == 0x2F || b == 0x5C

/-- `BaseName(P)` (41_hasher.md R158): the bytes after the last separator, all of P if it has none. -/
def baseName (p : Bytes) : Bytes := (p.reverse.takeWhile fun b => !isSeparator b).reverse

/-- The state with the hasher as a path left it (10_state.md R36). -/
def State.withHasher (s : State) (h : Hasher) : State := { s with units := { s.units with hasher := h } }

/-- What the hasher shows as its result (41_hasher.md R153). -/
def State.hashed (s : State) : Word := s.units.hasher.seed1

/-- HASH for one kind (41_hasher.md R156). -/
def hashCommand (kind : HashKind) (s : State) : Result :=
  s.withPath fun p =>
    let t := s.withHasher (hasherRun kind p)
    ({ t with res0 := t.hashed }).complete .ok

/-- HASH.OFFSET (41_hasher.md R156, kind 0). -/
def execHashOffset (s : State) : Result := hashCommand .tableOffset s

/-- HASH.NAMEA (41_hasher.md R156, kind 1). -/
def execHashNameA (s : State) : Result := hashCommand .nameA s

/-- HASH.NAMEB (41_hasher.md R156, kind 2). -/
def execHashNameB (s : State) : Result := hashCommand .nameB s

/-- HASH.FILEKEY (41_hasher.md R156, kind 3): the whole byte string, no base name taken. -/
def execHashFileKey (s : State) : Result := hashCommand .fileKey s

/-- HASH3 (41_hasher.md R157). -/
def execHash3 (s : State) : Result :=
  s.withPath fun p =>
    let t0 := s.withHasher (hasherRun .tableOffset p)
    let t1 := t0.withHasher (hasherRun .nameA p)
    let t2 := t1.withHasher (hasherRun .nameB p)
    ({ t2 with res0 := t0.hashed, res1 := t1.hashed, res2 := t2.hashed }).complete .ok

/-- The effective key (41_hasher.md R159): the base key, adjusted when ADJUSTED_KEY is set. -/
def effectiveKey (baseKey filePos usize flags : Word) : Word :=
  if flagAdjustedKey flags then (baseKey + filePos) ^^^ usize else baseKey

/-- FKEY (41_hasher.md R159). -/
def execFkey (s : State) : Result :=
  s.withPath fun p =>
    let t := s.withHasher (hasherRun .fileKey (baseName p))
    ({ t with res0 := effectiveKey t.hashed s.arg1 s.arg3 s.arg4 }).complete .ok

end Sys2Proof.Machine
end

