-- ==== Sys2Proof/Machine/WordCipher.lean ====
section
/-! DEFINITION. The word cipher and its commands DECRYPT and ENCRYPT (42_cipher.md). -/

namespace Sys2Proof.Machine

/-- `NextKey` (42_cipher.md R181, R182): the sum is taken before the OR. -/
def nextKey (key : Word) : Word := (((~~~key) <<< 0x15) + 0x11111111) ||| (key >>> 0x0B)

/-- The cipher as every run starts it (42_cipher.md R180, R183). -/
def cipherStart (key : Word) : Cipher := { key := key, seed2 := 0xEEEEEEEE }

/-- seed2 after the key schedule's step (42_cipher.md R180). -/
def cipherMix (c : Cipher) : Word := c.seed2 + ctRom (0x400 + (c.key &&& 0xFF).toNat)

/-- The cipher after a word whose PLAINTEXT is `plain` (42_cipher.md R180, R183). -/
def cipherFeed (c : Cipher) (plain : Word) : Cipher :=
  { key := nextKey c.key, seed2 := plain + cipherMix c + (cipherMix c <<< 5) + 3 }

/-- One word through the cipher: the word XOR the key stream (42_cipher.md R180, R183). -/
def cipherWord (c : Cipher) (w : Word) : Word := w ^^^ (c.key + cipherMix c)

/-- Decryption of a list of words (42_cipher.md R180): the cipher after it, and the plaintext. -/
def decryptRun (c : Cipher) : List Word → Cipher × List Word
  | [] => (c, [])
  | w :: ws =>
    let rest := decryptRun (cipherFeed c (cipherWord c w)) ws
    (rest.1, cipherWord c w :: rest.2)

/-- Encryption of a list of words (42_cipher.md R183): the cipher after it, and the ciphertext. -/
def encryptRun (c : Cipher) : List Word → Cipher × List Word
  | [] => (c, [])
  | w :: ws =>
    let rest := encryptRun (cipherFeed c w) ws
    (rest.1, cipherWord c w :: rest.2)

/-- `DecryptWords(W, key)` (42_cipher.md R180). -/
def decryptWords (ws : List Word) (key : Word) : List Word := (decryptRun (cipherStart key) ws).2

/-- `EncryptWords(W, key)` (42_cipher.md R183). -/
def encryptWords (ws : List Word) (key : Word) : List Word := (encryptRun (cipherStart key) ws).2

/-- `DecryptBytes(B, key)` (42_cipher.md R186): the 0 to 3 bytes after the last whole word pass unchanged. -/
def decryptBytes (bs : Bytes) (key : Word) : Bytes := unwords (decryptWords (wordsOf bs) key) ++ tailOf bs

/-- The state with the cipher as a run left it (10_state.md R36). -/
def State.withCipher (s : State) (c : Cipher) : State := { s with units := { s.units with cipher := c } }

/-- DECRYPT and ENCRYPT but for the direction (42_cipher.md R184, R185): BAD_ARGUMENT when 4N is more than BUF_BYTES in Z. -/
def cipherCommand (run : Cipher → List Word → Cipher × List Word) (s : State) : Result :=
  if 4 * s.arg0.toNat > s.cfg.bufBytes then .next (s.completeError .badArgument)
  else s.withInput (4 * s.arg0.toNat) fun bs =>
    let t := s.withCipher (cipherStart s.arg5)
    let r := run t.units.cipher (wordsOf bs)
    .next ((t.withCipher r.1).completeOutput (4 * s.arg0) (unwords r.2))

/-- DECRYPT (42_cipher.md R184). -/
def execDecrypt (s : State) : Result := cipherCommand decryptRun s

/-- ENCRYPT (42_cipher.md R185). -/
def execEncrypt (s : State) : Result := cipherCommand encryptRun s

end Sys2Proof.Machine
end

