-- ==== Sys2Proof/Machine/SectorReader.lean ====
section
/-! DEFINITION. The sector reader and RDFILE (44_sector_reader.md). -/

namespace Sys2Proof.Machine

/-- The operands of RDFILE (44_sector_reader.md R240) with the byte source and the parameters it reads. -/
structure ReadJob where
  exp   : Nat
  pos   : Nat
  csize : Nat
  usize : Nat
  flags : Word
  key   : Word
  src   : Bytes
  fails : List (Nat × Nat)
  cfg   : Params
  deriving DecidableEq, Repr

/-- The job that the operand registers describe (30_encoding.md R94). -/
def State.job (s : State) : ReadJob :=
  { exp := s.arg0.toNat, pos := s.arg1.toNat, csize := s.arg2.toNat, usize := s.arg3.toNat
    flags := s.arg4, key := s.arg5, src := s.src, fails := s.srcFail, cfg := s.cfg }

/-- The cipher and the sector reader while a file is read (10_state.md R36). -/
structure ReadUnits where
  cipher : Cipher
  reader : Reader
  deriving DecidableEq, Repr

/-- The units as every RDFILE starts them: nothing of an earlier command is in them (10_state.md R36, 20_memory.md R74). -/
def ReadUnits.start : ReadUnits := { cipher := Units.cleared.cipher, reader := Units.cleared.reader }

/-- The state with the cipher and the sector reader as a read left them. -/
def State.withReadUnits (s : State) (u : ReadUnits) : State :=
  { s with units := { s.units with cipher := u.cipher, reader := u.reader } }

/-- The sector size (44_sector_reader.md R245), in Z. -/
def ReadJob.sectorSize (j : ReadJob) : Nat := 512 <<< j.exp

/-- The number of sectors (44_sector_reader.md R245). -/
def ReadJob.sectorCount (j : ReadJob) : Nat := (j.usize + j.sectorSize - 1) / j.sectorSize

/-- The expected length of sector `i` (44_sector_reader.md R245, R248). -/
def ReadJob.expected (j : ReadJob) (i : Nat) : Nat := min j.sectorSize (j.usize - i * j.sectorSize)

/-- `HasOffsetTable(F)` (44_sector_reader.md R246). -/
def ReadJob.hasOffsetTable (j : ReadJob) : Bool :=
  match j.cfg.offsetTable with
  | .always => true
  | .compressedOnly => hasBits j.flags 0x00000300

/-- `CheckOffsets(off, n)` (44_sector_reader.md R247). -/
def checkOffsets (off : List Nat) (n csize : Nat) : Bool :=
  decide (4 * (n + 1) ≤ off.getD 0 0)
    && (List.range n).all (fun i => decide (off.getD i 0 ≤ off.getD (i + 1) 0))
    && off.getD n 0 == csize

/-- The units with stored bytes taken in: decrypted with this key when ENCRYPTED is set (44_sector_reader.md R243, R244). -/
def ReadJob.take (j : ReadJob) (key : Word) (stored : Bytes) (u : ReadUnits) : ReadUnits :=
  if flagEncrypted j.flags then
    { cipher := (decryptRun (cipherStart key) (wordsOf stored)).1
      reader := { u.reader with scratch := decryptBytes stored key } }
  else { u with reader := { u.reader with scratch := stored } }

/-- One byte-source read into the scratch buffer: the units after it, and the bytes or IO_ERROR. -/
def ReadJob.fetch (j : ReadJob) (key : Word) (a n : Nat) (u : ReadUnits) : ReadUnits × Except Code Bytes :=
  match srcRead j.src j.fails a n with
  | .error x => (u, .error x)
  | .ok stored => (j.take key stored u, .ok (j.take key stored u).reader.scratch)

/-- One sector: its stored bytes `[a, a + n)` fetched with this key, then decoded to `e` bytes. -/
def ReadJob.sector (j : ReadJob) (key : Word) (a n e : Nat) (u : ReadUnits) : ReadUnits × Except Code Bytes :=
  match j.fetch key a n u with
  | (u', .error x) => (u', .error x)
  | (u', .ok stored) => (u', decodeSector j.cfg.codecOrder stored e j.flags)

/-- `ReadSingleUnit()` (44_sector_reader.md R243): sector index 0, the key itself. -/
def ReadJob.singleUnit (j : ReadJob) (u : ReadUnits) : ReadUnits × Except Code Bytes :=
  j.sector j.key j.pos j.csize j.usize { u with reader := { u.reader with sector := 0 } }

/-- The offsets of the sectors: the table of the file, decrypted and checked, or without a table the contiguous
ones (44_sector_reader.md R245 to R247). -/
def ReadJob.offsets (j : ReadJob) (u : ReadUnits) : ReadUnits × Except Code (List Nat) :=
  if j.hasOffsetTable then
    match j.fetch (j.key - 1) j.pos (4 * (j.sectorCount + 1)) u with
    | (u', .error x) => (u', .error x)
    | (u', .ok t) =>
      let off := (wordsOf t).map BitVec.toNat
      if checkOffsets off j.sectorCount j.csize then (u', .ok off) else (u', .error .decodeError)
  else (u, .ok ((List.range (j.sectorCount + 1)).map fun i => min (i * j.sectorSize) j.usize))

/-- The sector loop (44_sector_reader.md R245) over these sector indices: the first error ends it (R251). -/
def ReadJob.sectors (j : ReadJob) (off : List Nat) : List Nat → ReadUnits → ReadUnits × Except Code Bytes
  | [], u => (u, .ok [])
  | i :: is, u =>
    match j.sector (j.key + BitVec.ofNat 32 i) (j.pos + off.getD i 0) (off.getD (i + 1) 0 - off.getD i 0) (j.expected i)
        { u with reader := { u.reader with sector := i } } with
    | (u', .error x) => (u', .error x)
    | (u', .ok d) =>
      match ReadJob.sectors j off is u' with
      | (u'', .error x) => (u'', .error x)
      | (u'', .ok ds) => (u'', .ok (d ++ ds))

/-- `ReadSectored()` (44_sector_reader.md R245). -/
def ReadJob.sectored (j : ReadJob) (u : ReadUnits) : ReadUnits × Except Code Bytes :=
  match j.offsets u with
  | (u', .error x) => (u', .error x)
  | (u', .ok off) =>
    j.sectors off (List.range j.sectorCount) { u' with reader := { u'.reader with offsets := off } }

/-- The bytes RDFILE reads once its operands have passed their checks (44_sector_reader.md R240, R249): an empty file is read
from nothing. -/
def ReadJob.contents (j : ReadJob) (u : ReadUnits) : ReadUnits × Except Code Bytes :=
  if j.usize = 0 then (u, .ok [])
  else if flagSingleUnit j.flags then j.singleUnit u
  else j.sectored u

/-- The first operand check of RDFILE that fails, in the order of 44_sector_reader.md R240 (R241, R242). -/
def ReadJob.operandError (j : ReadJob) : Option Code :=
  if j.exp > 22 then some .badArgument
  else if j.usize > j.cfg.bufBytes then some .outputOverflow
  else if flagExists j.flags = false then some .absent
  else if flagDeleteMarker j.flags then some .deleted
  else none

/-- RDFILE (44_sector_reader.md R240), with the final check of R250. -/
def execRdfile (s : State) : Result :=
  match s.job.operandError with
  | some x => .next (s.completeError x)
  | none =>
    match s.job.contents ReadUnits.start with
    | (u, .error x) => .next ((s.withReadUnits u).completeError x)
    | (u, .ok out) =>
      if out.length ≠ s.job.usize then .next ((s.withReadUnits u).completeError .decodeError)
      else .next ((s.withReadUnits u).completeOutput s.arg3 out)

end Sys2Proof.Machine
end

