-- ==== Sys2Proof/Machine/Dispatch.lean ====
section
/-! DEFINITION. Each instruction's meaning, one arm per constructor of `Instr` (30_encoding.md R92). -/

namespace Sys2Proof.Machine

def exec (i : Instr) (s : State) : Host.Outcome State Fault Refusal :=
  match i with
  | .ctrd => Sys2Proof.Machine.execCtrd s
  | .hashOffset => Sys2Proof.Machine.execHashOffset s
  | .hashNameA => Sys2Proof.Machine.execHashNameA s
  | .hashNameB => Sys2Proof.Machine.execHashNameB s
  | .hashFileKey => Sys2Proof.Machine.execHashFileKey s
  | .hash3 => Sys2Proof.Machine.execHash3 s
  | .fkey => Sys2Proof.Machine.execFkey s
  | .decrypt => Sys2Proof.Machine.execDecrypt s
  | .encrypt => Sys2Proof.Machine.execEncrypt s
  | .decomp => Sys2Proof.Machine.execDecomp s
  | .rdfile => Sys2Proof.Machine.execRdfile s

end Sys2Proof.Machine
end

