-- ==== Sys2Proof/Machine/Run.lean ====
section
/-! DEFINITION. How commands and host events follow each other (20_memory.md R70, 10_state.md R28, R33). -/

namespace Sys2Proof.Machine

/-- The command in progress runs and completes: the word in CMD, decoded; an illegal one completes with ILLEGAL_COMMAND
(30_encoding.md R91, 10_state.md R33), OBUF left alone (DEDUCED; log entries 13 and 14). All of a command's effect falls in this
step (DEDUCED, safe; log entry 10). -/
def coreStep (s : State) : Result :=
  match decodeWord s.cmd with
  | .ok i => exec i s
  | .error _ => .next (s.complete .illegalCommand)

/-- The core completes its command if it has one; when BUSY is 0 it does nothing (60_exceptions.md R294). -/
def coreTurn (s : State) : Result := if s.status.busy then coreStep s else .next s

/-- `wait` (30_encoding.md R110; DESIGN CHOICE, safe, log entry 18): while BUSY is 1 the core's command completes and the wait stays; then its last poll reads STATUS. -/
def pollTurn (rest : List Event) (s : State) : Result :=
  if s.status.busy then coreStep s else .next (({ s with sched := rest }).busRead 0x004 .word)

/-- The host attaches a byte source; while a command is in progress that is outside the model (20_memory.md R65; log entry 5), and a
source has at most 2^32 bytes (00_scope.md R8; DEDUCED, safe, log entry 22). -/
def attachTurn (src : Bytes) (fails : List (List (Nat × Nat))) (s : State) : Result :=
  if s.status.busy then .refused .sourceChangedInCommand
  else if src.length > 2 ^ 32 then .refused .sourceTooLong
  else .next { s with src := src, srcDraws := fails }

/-- One event, `s` being the state with that event still first. -/
def eventTurn (e : Event) (rest : List Event) (s : State) : Result :=
  match e with
  | .read off w => .next (({ s with sched := rest }).busRead off w)
  | .write off w v => .next (({ s with sched := rest }).busWrite off w v)
  | .writeBack off w => .next (({ s with sched := rest }).busWrite off w s.lastRead)
  | .poll => pollTurn rest s
  | .tick => .next { s with sched := rest }
  | .complete => coreTurn { s with sched := rest }
  | .reset => .next ({ s with sched := rest }).resetCore
  | .attach src fails => attachTurn src fails { s with sched := rest }

/-- One step: the next event, or the core's turn when no event is left, so that a started command completes
(70_reset_and_hazards.md R328). -/
def turn (s : State) : Result :=
  match s.sched with
  | [] => coreTurn s
  | e :: rest => eventTurn e rest s

/-- The state in which a command word has just been accepted (10_state.md R28) and the core's turn is next. -/
def State.accepted (v : Word) (s : State) : State :=
  { s.accept v with sched := if s.sched = [] then [] else .complete :: s.sched }

end Sys2Proof.Machine
end

