-- ==== Sys2Proof/Machine/Step.lean ====
section
/-! DEFINITION. The step, and how one instruction is placed so that the very next step runs it. -/

namespace Sys2Proof.Machine

/-- One step of the machine (20_memory.md R70). -/
def step (s : State) : Host.Outcome State Fault Refusal := turn s

/-- The state with an instruction's bits placed where the next step takes its command from: the word has been accepted by CMD and the
command is in progress (10_state.md R28); bits above `nbits` are zero (log entry 17). -/
def State.withFetchWord (s : State) (nbits w : Nat) : State := s.accepted (BitVec.ofNat 32 (w % 2 ^ nbits))

end Sys2Proof.Machine
end

