-- ==== Sys2Proof/Machine/HostForms.lean ====
section
/-! DEFINITION. The forms a host program is written in, as events (30_encoding.md R110 to R112). -/

namespace Sys2Proof.Machine

/-- `sw OFF, V` (30_encoding.md R110). -/
def sw (off : Nat) (v : Word) : List Event := [.write off .word v]

/-- `sh OFF, V` (30_encoding.md R110). -/
def sh (off : Nat) (v : Word) : List Event := [.write off .half v]

/-- `sb OFF, V` (30_encoding.md R110). -/
def sb (off : Nat) (v : Word) : List Event := [.write off .byte v]

/-- `lw OFF` (30_encoding.md R110); an `expect OFF, V` is this read and a comparison outside the machine. -/
def lw (off : Nat) : List Event := [.read off .word]

/-- `lb OFF` (30_encoding.md R110). -/
def lb (off : Nat) : List Event := [.read off .byte]

/-- `wait` (30_encoding.md R110). -/
def wait : List Event := [.poll]

/-- A command mnemonic (30_encoding.md R111): its word written to CMD. -/
def issue (i : Instr) : List Event := sw 0x000 (encode i)

/-- `call M` (30_encoding.md R112). -/
def call (i : Instr) : List Event := issue i ++ wait

/-- `arg n, V` (30_encoding.md R112). -/
def arg (n : Nat) (v : Word) : List Event := sw (0x010 + 4 * n) v

/-- The bytes of an `ibuf` from buffer offset `a` up. -/
def ibufFrom (a : Nat) : Bytes → List Event
  | [] => []
  | b :: bs => sb (0x10000 + a) (b.setWidth 32) ++ ibufFrom (a + 1) bs

/-- `ibuf b0, b1, ...` (30_encoding.md R112). -/
def ibuf (bs : Bytes) : List Event := ibufFrom 0 bs

/-- `mvres n, m` (30_encoding.md R112): the read, then the write of what it returned. -/
def mvres (n m : Nat) : List Event := lw (0x040 + 4 * n) ++ [.writeBack (0x010 + 4 * m) .word]

/-- `ack` (30_encoding.md R112): clears DONE. -/
def ackDone : List Event := sw 0x004 0x00000002

end Sys2Proof.Machine
end

