-- ==== Sys2Proof/Safety.lean ====
section
/-! DEFINITION. When a run has ended and when it is judged bad (70_reset_and_hazards.md R329), and what holds of every
state a step reaches. -/

namespace Sys2Proof.Machine

/-- The host has performed its last operation and no command is in progress (70_reset_and_hazards.md R329). -/
def State.ended (s : State) : Bool := s.sched.isEmpty && !s.status.busy

/-- How a command in progress comes to its end (10_state.md R33, 70_reset_and_hazards.md R320). -/
inductive CommandEnd where
  | completed (code : Code)
  | abandoned   -- the reset input was asserted: it wrote no status
  deriving DecidableEq, Repr

/-- The end of a command in the step from `s` to `t`, `none` where none ended. -/
def commandEnd (s t : State) : Option CommandEnd :=
  if s.status.busy && !t.status.busy then some (if t.status.done then .completed t.status.err else .abandoned) else none

/-- Whether a command completed with a code other than OK. -/
def CommandEnd.failed : CommandEnd → Bool
  | .completed code => code != .ok
  | .abandoned => false

/-- A run of `n` steps: the ends of its commands in their order, and the state it leaves; `none` where a step stops. -/
def run : Nat → State → Option (List CommandEnd × State)
  | 0, s => some ([], s)
  | n + 1, s =>
    match step s with
    | .next t => (run n t).map fun r => ((commandEnd s t).toList ++ r.1, r.2)
    | .fault _ => none
    | .refused _ => none

/-- A run that ended in `s` is judged bad when a command the program expected to succeed completed with another code than OK, or when
a sticky bit is set at the end (70_reset_and_hazards.md R329). `expected` says, command by command, whether the program expects it
to succeed (DESIGN CHOICE, safe, log entry 23). -/
def State.judgedBad (expected : List Bool) (ends : List CommandEnd) (s : State) : Bool :=
  (expected.zip ends).any (fun p => p.1 && p.2.failed) || s.status.errSeen || s.status.overrun

/-- The judgement of the run of `n` steps from `s`; `none` where the run stops or has not ended (70_reset_and_hazards.md R329). -/
def judge (expected : List Bool) (n : Nat) (s : State) : Option Bool :=
  match run n s with
  | some r => if r.2.ended then some (r.2.judgedBad expected r.1) else none
  | none => none

/-- The commands that write OBUF (10_state.md R35). -/
def writesObuf : Instr → Bool
  | .decrypt | .encrypt | .decomp | .rdfile => true
  | .ctrd | .hashOffset | .hashNameA | .hashNameB | .hashFileKey | .hash3 | .fkey => false

/-- The codes a command can end with (60_exceptions.md R286); ILLEGAL_COMMAND belongs to words that are no command. -/
def endCodes : Instr → List Code
  | .ctrd | .hashOffset | .hashNameA | .hashNameB | .hashFileKey | .hash3 | .fkey | .decrypt | .encrypt =>
    [.ok, .badArgument]
  | .decomp => [.ok, .decodeError, .unsupportedCodec, .badArgument, .outputOverflow]
  | .rdfile => [.ok, .decodeError, .unsupportedCodec, .ioError, .absent, .deleted, .badArgument, .outputOverflow]

/-- The offsets of a buffer are below `BUF_BYTES` (10_state.md R34, R35). -/
def Memory.inside (m : Memory) (n : Nat) : Prop := ∀ c ∈ m, c.1 < n

/-- What every step keeps: legal parameters, a byte source of legal size (00_scope.md R8), buffers in canonical form and inside their
size, nothing of a finished command in the units (10_state.md R36, 20_memory.md R74; the cleared value is log entry 11's), and while
a command is in progress DONE clear (10_state.md R26) and the results zero (10_state.md R25). -/
structure State.Inv (s : State) : Prop where
  params   : s.cfg.wellFormed = true
  srcSize  : s.src.length ≤ 2 ^ 32
  ibufWf   : s.ibuf.wf = true
  obufWf   : s.obuf.wf = true
  ibufSize : s.ibuf.inside s.cfg.bufBytes
  obufSize : s.obuf.inside s.cfg.bufBytes
  units    : s.units = Units.cleared
  busyDone : s.status.busy = true → s.status.done = false
  busyRes  : s.status.busy = true → s.res0 = 0 ∧ s.res1 = 0 ∧ s.res2 = 0

end Sys2Proof.Machine
end

