-- ==== Sys2Proof/Certificates/Slice0/Obligations.lean ====
section
/-! DEFINITION. The statements about the model, each from the numbered rules of spec/ that its docstring cites. -/

open Sys2Proof
open Sys2Proof.Machine

namespace Sys2Proof.Claims

/-- The offsets of the six operand registers (10_state.md R23). -/
def argOffsets : List Nat := [0x010, 0x014, 0x018, 0x01C, 0x020, 0x024]

/-- The offsets of the three result registers (10_state.md R23). -/
def resOffsets : List Nat := [0x040, 0x044, 0x048]

/-- The accesses that 20_memory.md R61 and R63 let a host read make. -/
def readable (cfg : Params) (off : Nat) (w : Width) : Prop :=
  off % w.bytes = 0 ∧
    ((w = .word ∧ off + 4 ≤ 0x100) ∨
     (w = .word ∧ 0x1000 ≤ off ∧ off + 4 ≤ 0x2400) ∨
     (0x10000 ≤ off ∧ off + w.bytes ≤ 0x10000 + cfg.bufBytes) ∨
     (0x20000 ≤ off ∧ off + w.bytes ≤ 0x20000 + cfg.bufBytes))

/-- The accesses that 20_memory.md R61 and R63 let a host write make: not the CT window, not OBUF. -/
def writable (cfg : Params) (off : Nat) (w : Width) : Prop :=
  off % w.bytes = 0 ∧
    ((w = .word ∧ off + 4 ≤ 0x100) ∨
     (0x10000 ≤ off ∧ off + w.bytes ≤ 0x10000 + cfg.bufBytes))

/-- The words 30_encoding.md R91 finds illegal: a bit of 31:10, an OPC outside 1 to 8, or a KIND with an OPC other than HASH. -/
def illegalWord (v : Word) : Prop :=
  v.extractLsb' 10 22 ≠ 0 ∨ (v.extractLsb' 0 8).toNat < 1 ∨ 8 < (v.extractLsb' 0 8).toNat ∨
    (v.extractLsb' 0 8 ≠ 2 ∧ v.extractLsb' 8 2 ≠ 0)

/-- How many bytes of IBUF a command takes (30_encoding.md R94). -/
def inputLength (i : Instr) (s : State) : Nat :=
  match i with
  | .hashOffset | .hashNameA | .hashNameB | .hashFileKey | .hash3 | .fkey | .decomp => s.arg0.toNat
  | .decrypt | .encrypt => 4 * s.arg0.toNat
  | .ctrd | .rdfile => 0

/-- The operand checks a command makes before it reads IBUF (60_exceptions.md R283, R285). -/
def inputAllowed (i : Instr) (s : State) : Prop :=
  inputLength i s ≤ s.cfg.bufBytes ∧ (i = .decomp → s.arg3.toNat ≤ s.cfg.bufBytes)

/-- The outcome is this error of a command that leaves OBUF alone: all but STATUS is as it was (60_exceptions.md R281). What completion
does to the internal units is `Obligations.UnitsNeverMatter`'s, here and below. -/
def fails (o : Host.Outcome State Fault Refusal) (s : State) (code : Code) : Prop :=
  ∃ u, o = .next { s with units := u, status := s.status.completed code }

/-- The outcome is this error of a command that writes OBUF: all of OBUF is unspecified, all else but STATUS as it was
(60_exceptions.md R281). -/
def failsOutput (o : Host.Outcome State Fault Refusal) (s : State) (code : Code) : Prop :=
  ∃ u, o = .next { s with units := u, obuf := [], status := s.status.completed code }

/-- The command's outcome is: OK, `out` in OBUF from its first byte up and nothing specified beyond, RES0 `len`, all else as it was
(10_state.md R33, R35). -/
def outputs (o : Host.Outcome State Fault Refusal) (s : State) (len : Word) (out : Bytes) : Prop :=
  ∃ u m, o = .next { s with units := u, obuf := m, res0 := len, status := s.status.completed .ok } ∧
    ∀ a : Nat, m.read a = out[a]?

/-- The codec's stage, if the codec byte has its bit (43_decompress.md R204). -/
def ifBit (cb bit : Byte) (c : Codec) : List Codec := if cb &&& bit ≠ 0 then [c] else []

/-- What follows a codec's answer (43_decompress.md R206): FAIL and more than `e` bytes are DECODE_ERROR, else `k` goes on with
the bytes. -/
def undone (r : Option Bytes) (e : Nat) (k : Bytes → Except Code Bytes) : Except Code Bytes :=
  match r with
  | some d => if d.length ≤ e then k d else .error .decodeError
  | none => .error .decodeError

/-- The last check of a decoded sector (43_decompress.md R207). -/
def exactly (e : Nat) (d : Bytes) : Except Code Bytes := if d.length = e then .ok d else .error .decodeError

/-- A chunk of a sparse stream (43_decompress.md R211). -/
inductive Chunk where
  | literal (bs : Bytes)
  | zeros (n : Nat)

/-- The lengths a chunk can have (43_decompress.md R211): 1 to 128 literal bytes, 3 to 130 zeros. -/
def Chunk.legal : Chunk → Prop
  | .literal bs => 1 ≤ bs.length ∧ bs.length ≤ 128
  | .zeros n => 3 ≤ n ∧ n ≤ 130

/-- The bytes of a chunk in the stream (43_decompress.md R211). -/
def Chunk.stream : Chunk → Bytes
  | .literal bs => BitVec.ofNat 8 (0x80 + (bs.length - 1)) :: bs
  | .zeros n => [BitVec.ofNat 8 (n - 3)]

/-- The bytes a chunk stands for (43_decompress.md R211). -/
def Chunk.output : Chunk → Bytes
  | .literal bs => bs
  | .zeros n => List.replicate n 0

/-- The big-endian length header (43_decompress.md R211). -/
def sparseHeader (n : Nat) : Bytes :=
  [BitVec.ofNat 8 (n / 2 ^ 24), BitVec.ofNat 8 (n / 2 ^ 16), BitVec.ofNat 8 (n / 2 ^ 8), BitVec.ofNat 8 n]

/-- The bytes `[a, a + n)` of the byte source (20_memory.md R64). -/
def slice (s : State) (a n : Nat) : Bytes := (s.src.drop a).take n

/-- A byte-source read that succeeds (20_memory.md R64). -/
def readsWell (s : State) (a n : Nat) : Prop := n = 0 ∨ (a + n ≤ s.src.length ∧ (a, n) ∉ s.srcFail)

/-- Stored bytes as the decoder gets them: decrypted with the key when ENCRYPTED is set (44_sector_reader.md R243, R244). -/
def decrypted (s : State) (key : Word) (stored : Bytes) : Bytes :=
  if s.arg4 &&& 0x00010000 ≠ 0 then decryptBytes stored key else stored

/-- The operands of RDFILE pass every check (44_sector_reader.md R240) and the file is not empty. -/
def fileOperands (s : State) : Prop :=
  s.arg0.toNat ≤ 22 ∧ s.arg3.toNat ≤ s.cfg.bufBytes ∧ s.arg4 &&& 0x80000000 ≠ 0 ∧ s.arg4 &&& 0x02000000 = 0 ∧
    0 < s.arg3.toNat

/-- The sector size and the number of sectors of 44_sector_reader.md R245. -/
def sectorSize (s : State) : Nat := 512 * 2 ^ s.arg0.toNat
def sectorCount (s : State) : Nat := (s.arg3.toNat + sectorSize s - 1) / sectorSize s

/-- The offsets of a sectored file (44_sector_reader.md R245 to R247): a readable, plausible table, or the contiguous ones where
the file has no table. -/
def fileOffsets (s : State) (off : List Nat) : Prop :=
  if s.cfg.offsetTable = .always ∨ s.arg4 &&& 0x00000300 ≠ 0 then
    readsWell s s.arg1.toNat (4 * (sectorCount s + 1)) ∧
    off = (wordsOf (decrypted s (s.arg5 - 1) (slice s s.arg1.toNat (4 * (sectorCount s + 1))))).map BitVec.toNat ∧
    4 * (sectorCount s + 1) ≤ off.getD 0 0 ∧
    (∀ i, i < sectorCount s → off.getD i 0 ≤ off.getD (i + 1) 0) ∧
    off.getD (sectorCount s) 0 = s.arg2.toNat
  else off = (List.range (sectorCount s + 1)).map fun i => min (i * sectorSize s) s.arg3.toNat

end Sys2Proof.Claims

open Sys2Proof.Claims

/-! ### Encoding -/

/-- Each mnemonic is one write of its word to CMD, and the word decodes to it (30_encoding.md R111). -/
def Obligations.MnemonicsAreTheirWords : Prop :=
  ∀ p ∈ [(Instr.ctrd, (0x00000001 : Word)), (.hashOffset, 0x00000002), (.hashNameA, 0x00000102), (.hashNameB, 0x00000202),
      (.hashFileKey, 0x00000302), (.hash3, 0x00000003), (.fkey, 0x00000004), (.decrypt, 0x00000005),
      (.encrypt, 0x00000006), (.decomp, 0x00000007), (.rdfile, 0x00000008)],
    issue p.1 = [.write 0x000 .word p.2] ∧ decodeWord p.2 = .ok p.1

/-- The decoder accepts exactly the words the encoder makes, each as its own instruction (30_encoding.md R90 to R93). -/
def Obligations.DecodeIsTheInverseOfEncode : Prop :=
  ∀ (v : Word) (i : Instr), decodeWord v = .ok i ↔ v = encode i

/-- Which words the decoder rejects and under which name (30_encoding.md R91, R106). -/
def Obligations.IllegalWordsAreRejectedByName : Prop :=
  ∀ v : Word,
    (decodeWord v = .error .reservedBits ↔ v.extractLsb' 10 22 ≠ 0) ∧
    (decodeWord v = .error .unknownOpcode ↔
      v.extractLsb' 10 22 = 0 ∧ ((v.extractLsb' 0 8).toNat = 0 ∨ 9 ≤ (v.extractLsb' 0 8).toNat)) ∧
    (decodeWord v = .error .kindNotZero ↔
      v.extractLsb' 10 22 = 0 ∧ 1 ≤ (v.extractLsb' 0 8).toNat ∧ (v.extractLsb' 0 8).toNat ≤ 8 ∧
        v.extractLsb' 0 8 ≠ 2 ∧ v.extractLsb' 8 2 ≠ 0) ∧
    decodeWord v ≠ .error .truncated

/-! ### The step -/

/-- A step with a command in progress runs the command CMD decodes to: when no event is left, when the next event is its completion
(which is taken off), and when the host waits; so does the step after a word is placed (10_state.md R28, R33). That the
events stand in the state is the model's choice (log entries 3 and 17). -/
def Obligations.StepRunsTheDecodedCommand : Prop :=
  (∀ (s : State) (i : Instr), s.status.busy = true → decodeWord s.cmd = .ok i →
    (s.sched = [] → step s = exec i s) ∧
    (∀ q, s.sched = .complete :: q → step s = exec i { s with sched := q }) ∧
    (∀ q, s.sched = .poll :: q → step s = exec i s)) ∧
  (∀ (s : State) (i : Instr),
    step (s.withFetchWord 32 (encode i).toNat) = exec i (s.accept (encode i)))

/-- ILLEGAL_COMMAND comes from decoding an illegal word and from nothing else (60_exceptions.md R282).
The list of events the step takes is the model's (log entry 3). That the word is completed like any other is the model's reading (log
entry 13), and so is that OBUF is kept whatever the word's OPC, one that writes OBUF included (log entry 14). -/
def Obligations.IllegalCommandComesOnlyFromDecode : Prop :=
  (∀ s : State, s.status.busy = true → s.sched = [] →
    (illegalWord s.cmd → fails (step s) s .illegalCommand) ∧
    (¬ illegalWord s.cmd → ∃ i, decodeWord s.cmd = .ok i ∧ step s = exec i s)) ∧
  (∀ (i : Instr) (s t : State), exec i s = .next t → t.status.err ≠ .illegalCommand)

/-- Acceptance of a command word: what the write of CMD does, and that the command it encodes is what then runs (10_state.md R28).
The list of events the step takes is the model's (log entry 3), and so is that the command's failing reads are drawn here (log entry 4).
That an illegal word is completed like any other, OBUF kept whatever its OPC, is the model's reading (log entries 13 and 14). -/
def Obligations.AcceptanceStartsTheCommand : Prop :=
  ∀ (s : State) (v : Word) (q : List Event), s.status.busy = false → s.sched = .write 0x000 .word v :: q →
    ∃ t, step s = .next t ∧
      t = { s with
        cmd := v, status := { s.status with done := false, busy := true }, res0 := 0, res1 := 0, res2 := 0,
        srcFail := s.srcDraws.headD (Config.failing s.draws), srcDraws := s.srcDraws.tail, draws := s.draws + 1,
        sched := q, reply := .done } ∧
      (q = [] →
        (∀ i, decodeWord v = .ok i → step t = exec i t) ∧
        (illegalWord v → fails (step t) t .illegalCommand))

/-- The busy lock: what a host write does while a command is in progress (10_state.md R31, R27, R26).
The list of events the step takes is the model's (log entry 3). -/
def Obligations.BusyWritesAreDropped : Prop :=
  ∀ (s : State) (off : Nat) (w : Width) (v : Word) (q : List Event),
    s.status.busy = true → s.sched = .write off w v :: q →
    (((w = .word ∧ (off = 0x000 ∨ off ∈ argOffsets)) ∨
        (off % w.bytes = 0 ∧ 0x10000 ≤ off ∧ off + w.bytes ≤ 0x10000 + s.cfg.bufBytes)) →
      step s = .next { s with status := { s.status with overrun := true }, sched := q, reply := .done }) ∧
    (w = .word ∧ off = 0x004 →
      step s = .next { s with
        status := if v.getLsbD 1 then { s.status with done := false } else s.status, sched := q, reply := .done }) ∧
    (w = .word ∧ off = 0x008 →
      step s = .next { s with ctrl := { ie := v.getLsbD 0 }, sched := q, reply := .done })

/-- What a host read returns, busy or not (10_state.md R32, R35, R39; 20_memory.md R62, R67, R71): while a command is in progress a fresh
draw from RES, and from OBUF a draw per byte; else each specified byte of a buffer in its place, low byte first, a draw for an unspecified one;
from every other register and from the CT window the defined value. The draws are free values: nothing is said of what they are (log
entry 7). The list of events the step takes is the model's (log entry 3). -/
def Obligations.ReadsBusyAndIdle : Prop :=
  ∀ (s : State) (off : Nat) (w : Width) (q : List Event), s.sched = .read off w :: q →
    (s.status.busy = true → w = .word → off ∈ resOffsets →
      ∃ t, step s = .next t ∧ t.reply = .value (Config.draw s.draws) ∧ s.draws < t.draws) ∧
    (∀ i, off = 0x20000 + i → i % w.bytes = 0 → i + w.bytes ≤ s.cfg.bufBytes → s.cfg.bufBytes ≤ 65536 →
      ∃ t v, step s = .next t ∧ t.reply = .value v ∧ s.draws + w.bytes ≤ t.draws ∧ v.toNat < 2 ^ (8 * w.bytes) ∧
        ∀ k < w.bytes, v.extractLsb' (8 * k) 8 =
          (if s.status.busy then none else s.obuf.read (i + k)).getD (drawByte (s.draws + k))) ∧
    (∀ i, off = 0x10000 + i → i % w.bytes = 0 → i + w.bytes ≤ s.cfg.bufBytes →
      ∃ t v, step s = .next t ∧ t.reply = .value v ∧ s.draws + w.bytes ≤ t.draws ∧ v.toNat < 2 ^ (8 * w.bytes) ∧
        ∀ k < w.bytes, v.extractLsb' (8 * k) 8 = (s.ibuf.read (i + k)).getD (drawByte (s.draws + k))) ∧
    (w = .word →
      ∀ p ∈ [(0x000, s.cmd), (0x004, s.status.toWord), (0x008, s.ctrl.toWord), (0x010, s.arg0), (0x014, s.arg1),
          (0x018, s.arg2), (0x01C, s.arg3), (0x020, s.arg4), (0x024, s.arg5)],
        off = p.1 → ∃ t, step s = .next t ∧ t.reply = .value p.2) ∧
    (∀ i < 1280, w = .word → off = 0x1000 + 4 * i → ∃ t, step s = .next t ∧ t.reply = .value (ctRom i))

/-- Which accesses are bus errors, and that a bus error changes nothing in the core, STATUS included (20_memory.md R63). That OVERRUN too is
left alone where the access is a write of IBUF that the busy lock would drop is the model's reading (log entry 12); that the host's next
event follows is the model's (log entry 8), and so is the list of events the step takes (log entry 3). -/
def Obligations.BusErrorsExactly : Prop :=
  (∀ (s : State) (off : Nat) (w : Width) (q : List Event), s.sched = .read off w :: q →
    (readable s.cfg off w →
      ∃ v d, step s = .next { s with sched := q, reply := .value v, lastRead := v, draws := d }) ∧
    (¬ readable s.cfg off w → step s = .next { s with sched := q, reply := .busError })) ∧
  (∀ (s : State) (off : Nat) (w : Width) (v : Word) (q : List Event), s.sched = .write off w v :: q →
    (writable s.cfg off w → ∃ t, step s = .next t ∧ t.reply = .done) ∧
    (¬ writable s.cfg off w → step s = .next { s with sched := q, reply := .busError }))

/-- A host read of the CT window returns the entry and has no side effect on the core (20_memory.md R62).
The list of events the step takes is the model's (log entry 3). -/
def Obligations.CtWindowReadsTheRom : Prop :=
  ∀ (s : State) (i : Nat) (q : List Event), i < 1280 → s.sched = .read (0x1000 + 4 * i) .word :: q →
    ∃ d, step s = .next { s with sched := q, reply := .value (ctRom i), lastRead := ctRom i, draws := d }

/-- The register page: operand registers hold what an idle host writes, every register reads back, results and reserved offsets ignore
writes, reserved offsets read 0 (10_state.md R23 to R25). That a write of a result or of a reserved offset leaves OVERRUN alone while a
command is in progress is the model's reading (log entry 20). The list of events the step takes is the model's (log entry 3). -/
def Obligations.RegisterPage : Prop :=
  (∀ (s : State) (v : Word) (q : List Event), s.status.busy = false →
    (s.sched = .write 0x010 .word v :: q → step s = .next { s with arg0 := v, sched := q, reply := .done }) ∧
    (s.sched = .write 0x014 .word v :: q → step s = .next { s with arg1 := v, sched := q, reply := .done }) ∧
    (s.sched = .write 0x018 .word v :: q → step s = .next { s with arg2 := v, sched := q, reply := .done }) ∧
    (s.sched = .write 0x01C .word v :: q → step s = .next { s with arg3 := v, sched := q, reply := .done }) ∧
    (s.sched = .write 0x020 .word v :: q → step s = .next { s with arg4 := v, sched := q, reply := .done }) ∧
    (s.sched = .write 0x024 .word v :: q → step s = .next { s with arg5 := v, sched := q, reply := .done })) ∧
  (∀ (s : State) (off : Nat) (q : List Event), s.sched = .read off .word :: q → s.status.busy = false →
    ∀ p ∈ [(0x000, s.cmd), (0x004, s.status.toWord), (0x008, s.ctrl.toWord), (0x010, s.arg0), (0x014, s.arg1),
        (0x018, s.arg2), (0x01C, s.arg3), (0x020, s.arg4), (0x024, s.arg5), (0x040, s.res0), (0x044, s.res1), (0x048, s.res2)],
      off = p.1 → ∃ t, step s = .next t ∧ t.reply = .value p.2) ∧
  (∀ (s : State) (off : Nat) (v : Word) (q : List Event), off % 4 = 0 → off < 0x100 →
    off ∉ [0x000, 0x004, 0x008] → off ∉ argOffsets →
    (s.sched = .write off .word v :: q → step s = .next { s with sched := q, reply := .done }) ∧
    (off ∉ resOffsets → s.sched = .read off .word :: q → ∃ t, step s = .next t ∧ t.reply = .value 0))

/-- STATUS as a word: its fields at their bits, its reserved bits 0, the numbers of the codes, and what a host write of it does
(10_state.md R26, 60_exceptions.md R280).
The list of events the step takes is the model's (log entry 3). -/
def Obligations.StatusFieldsAndClear : Prop :=
  (∀ st : Status,
    st.toWord.getLsbD 0 = st.busy ∧ st.toWord.getLsbD 1 = st.done ∧ st.toWord.extractLsb' 2 6 = 0 ∧
    st.toWord.extractLsb' 8 8 = st.err.toByte ∧ st.toWord.getLsbD 16 = st.errSeen ∧
    st.toWord.getLsbD 17 = st.overrun ∧ st.toWord.extractLsb' 18 14 = 0) ∧
  [Code.ok, .decodeError, .unsupportedCodec, .ioError, .absent, .deleted, .illegalCommand, .badArgument,
    .outputOverflow].map Code.toByte = [0, 1, 2, 3, 4, 5, 6, 7, 8] ∧
  (∀ (s : State) (v : Word) (q : List Event), s.sched = .write 0x004 .word v :: q →
    step s = .next { s with
      status := { s.status with done := s.status.done && !v.getLsbD 1 }, sched := q, reply := .done })

/-- CTRL keeps bit 0 of what the host writes, busy or not, and reads its other bits as 0 (10_state.md R27).
The list of events the step takes is the model's (log entry 3). -/
def Obligations.CtrlKeepsOnlyIe : Prop :=
  ∀ (s : State) (v : Word) (q : List Event), s.sched = .write 0x008 .word v :: .read 0x008 .word :: q →
    ∃ t t', step s = .next t ∧ t.ctrl.ie = v.getLsbD 0 ∧ t.status = s.status ∧ t.cmd = s.cmd ∧
      step t = .next t' ∧ t'.reply = .value (v &&& 1)

/-- A host write of IBUF while no command is in progress, of any width: exactly its bytes are set, low byte first, and nothing else
changes; one 4-byte write and the same bytes written one at a time leave the same IBUF (20_memory.md R67, 10_state.md R34).
The list of events the step takes is the model's (log entry 3). -/
def Obligations.IbufWritesSetTheirBytes : Prop :=
  (∀ (s : State) (i : Nat) (w : Width) (v : Word) (q : List Event), s.status.busy = false →
    s.sched = .write (0x10000 + i) w v :: q → i % w.bytes = 0 → i + w.bytes ≤ s.cfg.bufBytes →
    ∃ m, step s = .next { s with ibuf := m, sched := q, reply := .done } ∧
      ∀ a, m.read a = if i ≤ a ∧ a < i + w.bytes then some (v.extractLsb' (8 * (a - i)) 8) else s.ibuf.read a) ∧
  (∀ (s : State) (i : Nat) (v : Word), s.status.busy = false → i % 4 = 0 → i + 4 ≤ s.cfg.bufBytes →
    (s.busWrite (0x10000 + i) .word v).ibuf =
      ((((s.busWrite (0x10000 + i) .byte v).busWrite (0x10000 + (i + 1)) .byte (v >>> 8)).busWrite
        (0x10000 + (i + 2)) .byte (v >>> 16)).busWrite (0x10000 + (i + 3)) .byte (v >>> 24)).ibuf ∧
    (s.busWrite (0x10000 + i) .word v).ibuf.readBytes i 4 =
      some [v.extractLsb' 0 8, v.extractLsb' 8 8, v.extractLsb' 16 8, v.extractLsb' 24 8])

/-- The interrupt output is DONE AND IE; every completion raises it when enabled; ack, acceptance, IE = 0 and reset clear it
(60_exceptions.md R290).
The list of events the step takes is the model's (log entry 3). -/
def Obligations.InterruptFollowsCompletion : Prop :=
  (∀ s : State, s.irq = (s.status.done && s.ctrl.ie)) ∧
  (∀ (i : Instr) (s t : State), exec i s = .next t → t.irq = s.ctrl.ie) ∧
  (∀ s t : State, s.status.busy = true → s.sched = [] → step s = .next t → t.irq = s.ctrl.ie) ∧
  (∀ (s : State) (v : Word) (q : List Event), s.sched = .write 0x004 .word v :: q → v.getLsbD 1 = true →
    ∃ t, step s = .next t ∧ t.irq = false) ∧
  (∀ (s : State) (v : Word) (q : List Event), s.sched = .write 0x008 .word v :: q → v.getLsbD 0 = false →
    ∃ t, step s = .next t ∧ t.irq = false) ∧
  (∀ (s : State) (v : Word) (q : List Event), s.sched = .write 0x000 .word v :: q → s.status.busy = false →
    ∃ t, step s = .next t ∧ t.irq = false) ∧
  State.reset.irq = false

/-- After reset the registers the host sees read 0, no command is in progress, IRQ is 0 and no byte of a buffer is specified
(10_state.md R39). The parameters of the reset state are the model's choice (log entry 1) and not part of this. -/
def Obligations.ResetLeavesZeroRegisters : Prop :=
  (∀ off < 0x100, State.reset.readRegister off = 0) ∧ State.reset.status.busy = false ∧ State.reset.irq = false ∧
  (∀ a, State.reset.ibuf.read a = none) ∧ (∀ a, State.reset.obuf.read a = none)

/-- The reset input, at any time: the core is as after reset and a command in progress is abandoned; byte source and parameters
are not the core's (70_reset_and_hazards.md R320; log entry 19).
The list of events the step takes is the model's (log entry 3). -/
def Obligations.ResetAbandonsTheCommand : Prop :=
  ∀ (s : State) (q : List Event), s.sched = .reset :: q →
    ∃ t, step s = .next t ∧
      t.cmd = 0 ∧ t.status.toWord = 0 ∧ t.ctrl.toWord = 0 ∧ t.irq = false ∧
      [t.arg0, t.arg1, t.arg2, t.arg3, t.arg4, t.arg5, t.res0, t.res1, t.res2] = List.replicate 9 0 ∧
      (∀ a, t.ibuf.read a = none ∧ t.obuf.read a = none) ∧ t.cfg = s.cfg ∧ t.src = s.src ∧ t.sched = q ∧
      (s.status.busy = true → commandEnd s t = some .abandoned)

/-- No event but reset clears ERRSEEN or OVERRUN (70_reset_and_hazards.md R320, 10_state.md R26). -/
def Obligations.OnlyResetClearsTheStickyBits : Prop :=
  ∀ s t : State, step s = .next t → (∀ q, s.sched ≠ .reset :: q) →
    (s.status.errSeen = true → t.status.errSeen = true) ∧ (s.status.overrun = true → t.status.overrun = true)

/-- Every step keeps: legal parameters, a byte source of legal size, both buffers in canonical form and inside BUF_BYTES, nothing of a finished
command in the units, and while a command is in progress DONE clear and the results zero (00_scope.md R8; 10_state.md R25, R26, R34 to R37;
20_memory.md R74). What the units hold while no command runs is the model's choice (log entry 11); that a longer source is refused too
(log entry 22). -/
def Obligations.StepKeepsTheInvariant : Prop :=
  ∀ s t : State, s.Inv → step s = .next t → t.Inv

/-- The reset state meets that invariant (10_state.md R39); its parameters are the model's choice (log entry 1), and what the units hold
(log entry 11). -/
def Obligations.ResetMeetsTheInvariant : Prop := State.reset.Inv

/-- While a command is in progress and has not completed, nothing changes CMD, an operand register, IBUF, the byte source or the
parameters: a command sees its acceptance-time operands (20_memory.md R70, R65). -/
def Obligations.OperandsAreLockedWhileBusy : Prop :=
  ∀ s t : State, s.status.busy = true → step s = .next t → t.status.busy = true →
    t.cmd = s.cmd ∧ t.arg0 = s.arg0 ∧ t.arg1 = s.arg1 ∧ t.arg2 = s.arg2 ∧ t.arg3 = s.arg3 ∧ t.arg4 = s.arg4 ∧
    t.arg5 = s.arg5 ∧ t.ibuf = s.ibuf ∧ t.src = s.src ∧ t.srcFail = s.srcFail ∧
    t.srcDraws = s.srcDraws ∧ t.cfg = s.cfg

/-- The byte source and the events that start nothing: a step is refused exactly when the host changes the source during a command
(20_memory.md R65; log entry 5) or attaches one of more than 2^32 bytes (00_scope.md R8; log entry 22); while no command is in progress
an attachment sets the source and the draws of its failing reads and nothing else (20_memory.md R64; log entry 4); a completion on an idle core, no
event on an idle core and the passing of time change nothing (60_exceptions.md R294).
The list of events the step takes is the model's (log entry 3). -/
def Obligations.SourceAttachmentAndIdleEvents : Prop :=
  (∀ (s : State) (r : Refusal), step s = .refused r ↔ ∃ src fails q, s.sched = .attach src fails :: q ∧
    ((s.status.busy = true ∧ r = .sourceChangedInCommand) ∨
     (s.status.busy = false ∧ 2 ^ 32 < src.length ∧ r = .sourceTooLong))) ∧
  (∀ (s : State) (src : Bytes) (fails : List (List (Nat × Nat))) (q : List Event), s.sched = .attach src fails :: q →
    s.status.busy = false → src.length ≤ 2 ^ 32 →
    step s = .next { s with src := src, srcDraws := fails, sched := q }) ∧
  (∀ (s : State) (q : List Event), s.sched = .tick :: q → step s = .next { s with sched := q }) ∧
  (∀ (s : State) (q : List Event), s.sched = .complete :: q → s.status.busy = false → step s = .next { s with sched := q }) ∧
  (∀ s : State, s.sched = [] → s.status.busy = false → step s = .next s)

/-- The forms of a host program with more than one access, run: `mvres n, m` copies RESn to ARGm and no other register;
`call M` accepts the command, lets it complete, and its wait ends with a read of STATUS (30_encoding.md R110, R112). That the accesses
stand as events in the state is the model's (log entries 3 and 18). -/
def Obligations.HostFormsRun : Prop :=
  (∀ (s : State) (n m : Nat) (q : List Event), s.status.busy = false → n < 3 → m < 6 → s.sched = mvres n m ++ q →
    ∃ t t', step s = .next t ∧ step t = .next t' ∧ t'.sched = q ∧
      ∀ off, t'.readRegister off =
        if off = 0x010 + 4 * m then s.readRegister (0x040 + 4 * n) else s.readRegister off) ∧
  (∀ (s : State) (i : Instr) (q : List Event), s.status.busy = false → s.sched = call i ++ q →
    ∃ t, step s = .next t ∧ t.cmd = encode i ∧ t.status.busy = true ∧ step t = exec i t ∧
      ∀ u, exec i t = .next u →
        ∃ v, step u = .next v ∧ v.sched = q ∧ v.reply = .value u.status.toWord ∧ v.status = u.status)

/-! ### How commands end -/

/-- What completion does to STATUS, for every command and every code (10_state.md R33); that the end of a command in a step is its
completion with the code STATUS then shows; and that a run in which a command the program expected to succeed completes with
another code is judged bad, whatever comes after (70_reset_and_hazards.md R329). The list of events the step takes is the model's (log
entry 3), and so is the form of the program's expectations (log entry 23). -/
def Obligations.CompletionWritesStatus : Prop :=
  (∀ (i : Instr) (s t : State), exec i s = .next t →
    t.status = { busy := false, done := true, err := t.status.err,
                 errSeen := s.status.errSeen || t.status.err != .ok, overrun := s.status.overrun }) ∧
  (∀ s t : State, s.status.busy = true → step s = .next t → t.status.busy = false → (∀ q, s.sched ≠ .reset :: q) →
    commandEnd s t = some (.completed t.status.err) ∧
    (t.status.err ≠ .ok → ∀ (n : Nat) (expected : List Bool) (ends : List CommandEnd) (u : State),
      run n t = some (ends, u) → u.ended = true → judge (true :: expected) (n + 1) s = some true))

/-- The whole effect of an error: STATUS, and OBUF unspecified if the command writes OBUF; the results stay as acceptance left them,
all zero (60_exceptions.md R281, 10_state.md R25). -/
def Obligations.ErrorEffect : Prop :=
  (∀ (i : Instr) (s t : State), exec i s = .next t → t.status.err ≠ .ok →
    t = { s with
      status := { busy := false, done := true, err := t.status.err, errSeen := true, overrun := s.status.overrun }
      units := t.units, obuf := if writesObuf i then [] else s.obuf }) ∧
  (∀ (i : Instr) (s t : State) (v : Word), exec i (s.accept v) = .next t → t.status.err ≠ .ok →
    t.res0 = 0 ∧ t.res1 = 0 ∧ t.res2 = 0)

/-- Frame of CTRD, HASH and FKEY: RES0, STATUS and the internal units; of HASH3: RES1 and RES2 too. All of memory,
OBUF among it, is unchanged (10_state.md R24, R25, R35, R38). -/
def Obligations.RegisterCommandsFrame : Prop :=
  (∀ i ∈ [Instr.ctrd, .hashOffset, .hashNameA, .hashNameB, .hashFileKey, .fkey], ∀ s t : State, exec i s = .next t →
    t = { s with res0 := t.res0, status := t.status, units := t.units }) ∧
  (∀ s t : State, exec .hash3 s = .next t →
    t = { s with res0 := t.res0, res1 := t.res1, res2 := t.res2, status := t.status, units := t.units })

/-- Frame of DECRYPT, ENCRYPT, DECOMP and RDFILE: RES0, STATUS, the internal units and OBUF, of which only the first RES0 bytes are
specified and none after an error; IBUF and every other register are unchanged (10_state.md R24, R25, R34, R35). -/
def Obligations.OutputCommandsFrame : Prop :=
  ∀ i ∈ [Instr.decrypt, .encrypt, .decomp, .rdfile], ∀ s t : State, s.cfg.wellFormed = true → exec i s = .next t →
    t = { s with res0 := t.res0, status := t.status, units := t.units, obuf := t.obuf } ∧
    (t.status.err = .ok → ∀ a, (t.obuf.read a).isSome = decide (a < t.res0.toNat)) ∧
    (t.status.err ≠ .ok → ∀ a, t.obuf.read a = none)

/-- Which command can end with which code, each code listed and no other (60_exceptions.md R286). -/
def Obligations.EndCodesAreExact : Prop :=
  ∀ (i : Instr) (c : Code), (∃ s t, exec i s = .next t ∧ t.status.err = c) ↔ c ∈ endCodes i

/-- Every command completes when the host has written IBUF (70_reset_and_hazards.md R328); that an unwritten byte stops it is
93_implementation_defined.md U3. -/
def Obligations.EveryCommandCompletes : Prop :=
  ∀ (i : Instr) (s : State), (∀ a < s.cfg.bufBytes, (s.ibuf.read a).isSome = true) → ∃ t, exec i s = .next t

/-- A command faults exactly when its operands pass their checks and its operand range covers an IBUF byte nothing has written since
reset; no command is refused (10_state.md R39). -/
def Obligations.FaultsExactlyOnUnwrittenInput : Prop :=
  ∀ (i : Instr) (s : State),
    (exec i s = .fault .unwrittenInput ↔ inputAllowed i s ∧ ∃ a < inputLength i s, s.ibuf.read a = none) ∧
    (∀ r, exec i s ≠ .refused r)

/-- Nothing in the units survives from one command to the next (10_state.md R36, R37; 20_memory.md R74): what they hold changes no step's
outcome, the command that runs gives one and the same state whatever they hold, and a step in which a command ends leaves them cleared. The
value they are cleared to is the model's choice (log entry 11). -/
def Obligations.UnitsNeverMatter : Prop :=
  (∀ (s : State) (u : Units),
    match step s, step { s with units := u } with
    | .next t, .next t' => t' = { t with units := t'.units }
    | .fault f, .fault f' => f = f'
    | .refused r, .refused r' => r = r'
    | _, _ => False) ∧
  (∀ (i : Instr) (s : State) (u : Units), exec i { s with units := u } = exec i s) ∧
  (∀ s t : State, s.status.busy = true → step s = .next t → t.status.busy = false → t.units = Units.cleared)

/-! ### CT ROM -/

/-- The ROM is what the procedure of 40_crypto_table.md R130 produces: 1280 writes, one of them each entry; and the three values of R132. -/
def Obligations.CtRomIsGenerated : Prop :=
  ctGenerated.length = 1280 ∧ (∀ i < 1280, (i, ctRom i) ∈ ctGenerated) ∧
  ctRom 0 = 0x55C636E2 ∧ ctRom 256 = 0x76F8C1B1 ∧ ctRom 1279 = 0x7303286C

/-- CTRD (40_crypto_table.md R133); RES1 and RES2 are 0 after it, as acceptance left them (10_state.md R25). -/
def Obligations.CtrdReadsAnEntry : Prop :=
  ∀ s : State,
    (s.arg0.toNat < 1280 →
      ∃ u, exec .ctrd s = .next { s with units := u, res0 := ctRom s.arg0.toNat, status := s.status.completed .ok }) ∧
    (1280 ≤ s.arg0.toNat → fails (exec .ctrd s) s .badArgument) ∧
    (∀ v t, exec .ctrd (s.accept v) = .next t → t.res1 = 0 ∧ t.res2 = 0)

/-! ### Hasher -/

/-- The hash recurrence (41_hasher.md R153, R151): the seeds, and one more character. -/
def Obligations.HashRecurrence : Prop :=
  ∀ (k : HashKind) (p : Bytes) (b : Byte),
    pathHash k [] = 0x7FED7FED ∧
    hasherRun k [] = { seed1 := 0x7FED7FED, seed2 := 0xEEEEEEEE } ∧
    (let ch : Byte :=
      if 0x61 ≤ b.toNat ∧ b.toNat ≤ 0x7A then b - 0x20 else if b = 0x2F then 0x5C else b
     let h := hasherRun k p
     let seed1 := ctRom (kindNumber k * 256 + ch.toNat) ^^^ (h.seed1 + h.seed2)
     hasherRun k (p ++ [b]) =
       { seed1 := seed1, seed2 := ch.setWidth 32 + seed1 + h.seed2 + (h.seed2 <<< 5) + 3 } ∧
     pathHash k (p ++ [b]) = seed1)

/-- HASH for its four kinds (41_hasher.md R156). -/
def Obligations.HashCommandsWriteTheHash : Prop :=
  ∀ (s : State) (p : Bytes),
    ∀ ik ∈ [(Instr.hashOffset, HashKind.tableOffset), (.hashNameA, .nameA), (.hashNameB, .nameB), (.hashFileKey, .fileKey)],
      (s.arg0.toNat ≤ s.cfg.bufBytes → s.input s.arg0.toNat = some p →
        ∃ u, exec ik.1 s = .next { s with
          units := u, res0 := pathHash ik.2 p, status := s.status.completed .ok }) ∧
      (s.cfg.bufBytes < s.arg0.toNat → fails (exec ik.1 s) s .badArgument)

/-- HASH3 (41_hasher.md R157). -/
def Obligations.Hash3WritesThreeHashes : Prop :=
  ∀ (s : State) (p : Bytes),
    (s.arg0.toNat ≤ s.cfg.bufBytes → s.input s.arg0.toNat = some p →
      ∃ u, exec .hash3 s = .next { s with
        units := u, res0 := pathHash .tableOffset p, res1 := pathHash .nameA p, res2 := pathHash .nameB p,
        status := s.status.completed .ok }) ∧
    (s.cfg.bufBytes < s.arg0.toNat → fails (exec .hash3 s) s .badArgument)

/-- FKEY (41_hasher.md R159). -/
def Obligations.FkeyWritesTheEffectiveKey : Prop :=
  ∀ (s : State) (p : Bytes),
    (s.arg0.toNat ≤ s.cfg.bufBytes → s.input s.arg0.toNat = some p →
      ∃ u, exec .fkey s = .next { s with
        units := u
        res0 := if s.arg4 &&& 0x00020000 ≠ 0 then (pathHash .fileKey (baseName p) + s.arg1) ^^^ s.arg3
          else pathHash .fileKey (baseName p)
        status := s.status.completed .ok }) ∧
    (s.cfg.bufBytes < s.arg0.toNat → fails (exec .fkey s) s .badArgument)

/-- The base name is what follows the last separator, all of the path if it has none (41_hasher.md R158). -/
def Obligations.BaseNameFollowsTheLastSeparator : Prop :=
  ∀ tail : Bytes, (∀ b ∈ tail, b ≠ 0x2F ∧ b ≠ 0x5C) →
    baseName tail = tail ∧
    ∀ (dir : Bytes) (sep : Byte), sep = 0x2F ∨ sep = 0x5C → baseName (dir ++ sep :: tail) = tail

/-- Two paths that normalise alike give every path command the same outcome, but for IBUF itself (41_hasher.md R154, R158). -/
def Obligations.PathSpellingNeverMatters : Prop :=
  ∀ i ∈ [Instr.hashOffset, .hashNameA, .hashNameB, .hashFileKey, .hash3, .fkey],
    ∀ (s t : State) (m : Memory) (p q : Bytes),
      s.input s.arg0.toNat = some p → ({ s with ibuf := m }).input s.arg0.toNat = some q →
      normPath p = normPath q → exec i s = .next t →
      exec i { s with ibuf := m } = .next { t with ibuf := m }

/-! ### Cipher -/

/-- The two recurrences and the key update, statement by statement (42_cipher.md R180, R181, R183). That encryption feeds back the plaintext
word is R183's own inference from R180 and the round-trip property. -/
def Obligations.CipherRecurrences : Prop :=
  ∀ (key seed2 w : Word) (ws : List Word),
    nextKey key = (((~~~key) <<< 21) + 0x11111111) ||| (key >>> 11) ∧
    decryptWords ws key = (decryptRun { key := key, seed2 := 0xEEEEEEEE } ws).2 ∧
    encryptWords ws key = (encryptRun { key := key, seed2 := 0xEEEEEEEE } ws).2 ∧
    (decryptRun { key := key, seed2 := seed2 } []).2 = [] ∧ (encryptRun { key := key, seed2 := seed2 } []).2 = [] ∧
    (let mixed := seed2 + ctRom (0x400 + (key &&& 0xFF).toNat)
     let value := w ^^^ (key + mixed)
     (decryptRun { key := key, seed2 := seed2 } (w :: ws)).2 =
       value :: (decryptRun { key := nextKey key, seed2 := value + mixed + (mixed <<< 5) + 3 } ws).2 ∧
     (encryptRun { key := key, seed2 := seed2 } (w :: ws)).2 =
       value :: (encryptRun { key := nextKey key, seed2 := w + mixed + (mixed <<< 5) + 3 } ws).2)

/-- Decryption undoes encryption and encryption undoes decryption, for every key and every list of words (42_cipher.md R183). -/
def Obligations.CipherDirectionsAreInverse : Prop :=
  ∀ (ws : List Word) (key : Word),
    decryptWords (encryptWords ws key) key = ws ∧ encryptWords (decryptWords ws key) key = ws

/-- A byte string of whole words and a tail of 0 to 3 bytes: the words are decrypted, the tail passes unchanged (42_cipher.md R186). -/
def Obligations.TailBytesPassUnchanged : Prop :=
  ∀ (ws : List Word) (tail : Bytes) (key : Word), tail.length < 4 →
    decryptBytes (unwords ws ++ tail) key = unwords (decryptWords ws key) ++ tail

/-- DECRYPT and ENCRYPT (42_cipher.md R184, R185); 4N is compared in Z. -/
def Obligations.CipherCommandsWriteTheWords : Prop :=
  ∀ (s : State) (bs : Bytes),
    (4 * s.arg0.toNat ≤ s.cfg.bufBytes → s.input (4 * s.arg0.toNat) = some bs →
      outputs (exec .decrypt s) s (4 * s.arg0) (unwords (decryptWords (wordsOf bs) s.arg5)) ∧
      outputs (exec .encrypt s) s (4 * s.arg0) (unwords (encryptWords (wordsOf bs) s.arg5))) ∧
    (s.cfg.bufBytes < 4 * s.arg0.toNat →
      failsOutput (exec .decrypt s) s .badArgument ∧
      failsOutput (exec .encrypt s) s .badArgument)

/-- The source's round trip as the host sees it: ENCRYPT, the copy of OBUF to IBUF, DECRYPT with the same operands give back the
bytes (42_cipher.md R183, 70_reset_and_hazards.md R326). -/
def Obligations.RoundTripThroughTheBuffers : Prop :=
  ∀ (s : State) (bs : Bytes), 4 * s.arg0.toNat ≤ s.cfg.bufBytes → s.input (4 * s.arg0.toNat) = some bs →
    ∃ t out t', exec .encrypt s = .next t ∧ t.obuf.readBytes 0 (4 * s.arg0.toNat) = some out ∧
      exec .decrypt { t with ibuf := t.ibuf.writeBytes 0 out } = .next t' ∧ t'.status.err = .ok ∧
      t'.obuf.readBytes 0 (4 * s.arg0.toNat) = some bs

/-! ### Sector decoder -/

/-- The sector decoder returns a byte string of exactly the expected length, or raises one of two codes (43_decompress.md R200). -/
def Obligations.DecodedSectorHasItsLength : Prop :=
  ∀ (o : CodecOrder) (r : Bytes) (e : Nat) (f : Word),
    (∃ d, decodeSector o r e f = .ok d ∧ d.length = e) ∨
    decodeSector o r e f = .error .decodeError ∨ decodeSector o r e f = .error .unsupportedCodec

/-- Stored sectors, the paths the flag word selects where no codec runs, and the codec bytes that run none (43_decompress.md R201 to R204). -/
def Obligations.StoredSectorsAndCodecByte : Prop :=
  ∀ (o : CodecOrder) (r : Bytes) (e : Nat) (f : Word),
    (r.length = e → decodeSector o r e f = .ok r) ∧
    (r.length ≠ e → f &&& 0x00000300 = 0 → decodeSector o r e f = .error .decodeError) ∧
    (0 < e → f &&& 0x00000200 ≠ 0 → decodeSector o [] e f = .error .decodeError) ∧
    (∀ (cb : Byte) (d : Bytes), r = cb :: d → r.length ≠ e → f &&& 0x00000200 ≠ 0 →
      (cb ≠ 0x12 → cb &&& 0xC5 ≠ 0 → decodeSector o r e f = .error .unsupportedCodec) ∧
      (cb = 0x00 → decodeSector o r e f = if d.length = e then .ok d else .error .decodeError))

/-- A sector of one codec, or of sparse and zlib in either order: what the codec functions give decides, FAIL and a wrong length are
DECODE_ERROR (43_decompress.md R202, R204 to R207, R214). First, for every codec byte: its stages run in their order, each on the bytes the one before
it gave, and then the length is checked. -/
def Obligations.CodecStagesDecide : Prop :=
  ∀ (o : CodecOrder) (d : Bytes) (e : Nat) (f : Word),
    (∀ (cb : Byte) (cs : List Codec), stages o cb = .ok cs → f &&& 0x00000200 ≠ 0 → d.length + 1 ≠ e →
      decodeSector o (cb :: d) e f = cs.foldr (fun c k r => undone (codecRun c r e) e k) (exactly e) d) ∧
    (∀ cf ∈ [((0x02 : Byte), Config.codecZlib d e), (0x08, Config.codecImplode d e), (0x10, Config.codecBzip2 d e),
        (0x12, Config.codecLzma d e), (0x20, sparse d)],
      f &&& 0x00000200 ≠ 0 → d.length + 1 ≠ e →
      decodeSector o (cf.1 :: d) e f = undone cf.2 e (exactly e)) ∧
    (f &&& 0x00000200 = 0 → f &&& 0x00000100 ≠ 0 → d.length ≠ e →
      decodeSector o d e f = undone (Config.codecImplode d e) e (exactly e)) ∧
    (f &&& 0x00000200 ≠ 0 → d.length + 1 ≠ e →
      decodeSector .descending (0x22 :: d) e f =
        undone (sparse d) e (fun r => undone (Config.codecZlib r e) e (exactly e)) ∧
      decodeSector .reference (0x22 :: d) e f =
        undone (Config.codecZlib d e) e (fun r => undone (sparse r) e (exactly e)))

/-- The stages of every codec byte in either order; the orders differ only where sparse stands with another codec
(43_decompress.md R204, R205). -/
def Obligations.StageOrders : Prop :=
  ∀ cb : Byte, cb ≠ 0x12 → cb &&& 0xC5 = 0 →
    stages .descending cb =
      .ok (ifBit cb 0x20 .sparse ++ ifBit cb 0x10 .bzip2 ++ ifBit cb 0x08 .implode ++ ifBit cb 0x02 .zlib) ∧
    stages .reference cb =
      .ok (ifBit cb 0x10 .bzip2 ++ ifBit cb 0x08 .implode ++ ifBit cb 0x02 .zlib ++ ifBit cb 0x20 .sparse) ∧
    (stages .descending cb ≠ stages .reference cb ↔ cb &&& 0x20 ≠ 0 ∧ cb &&& 0x1A ≠ 0)

/-- The sparse codec decodes exactly the streams of its format, each to the bytes its chunks stand for (43_decompress.md R211, R212). -/
def Obligations.SparseDecodesExactlyItsFormat : Prop :=
  ∀ d out : Bytes, sparse d = some out ↔
    ∃ cs : List Chunk, (∀ c ∈ cs, c.legal) ∧ out.length < 2 ^ 32 ∧
      d = sparseHeader out.length ++ cs.flatMap Chunk.stream ∧ out = cs.flatMap Chunk.output

/-- DECOMP (43_decompress.md R216); of the flags only COMPRESSED and IMPLODED matter. -/
def Obligations.DecompDecodesOneSector : Prop :=
  (∀ (o : CodecOrder) (r : Bytes) (e : Nat) (f f' : Word), f &&& 0x00000300 = f' &&& 0x00000300 →
    decodeSector o r e f = decodeSector o r e f') ∧
  ∀ s : State,
    (s.cfg.bufBytes < s.arg0.toNat → failsOutput (exec .decomp s) s .badArgument) ∧
    (s.arg0.toNat ≤ s.cfg.bufBytes → s.cfg.bufBytes < s.arg3.toNat →
      failsOutput (exec .decomp s) s .outputOverflow) ∧
    (s.arg0.toNat ≤ s.cfg.bufBytes → s.arg3.toNat ≤ s.cfg.bufBytes → ∀ r, s.input s.arg0.toNat = some r →
      (∀ out, decodeSector s.cfg.codecOrder r s.arg3.toNat s.arg4 = .ok out → outputs (exec .decomp s) s s.arg3 out) ∧
      (∀ x, decodeSector s.cfg.codecOrder r s.arg3.toNat s.arg4 = .error x →
        failsOutput (exec .decomp s) s x))

/-- DECOMP completes with OK on a stored sector, whatever the flag word holds: it copies IBUF to OBUF (43_decompress.md R216, R201). -/
def Obligations.DecompCopiesAStoredSector : Prop :=
  ∀ (s : State) (r : Bytes), s.arg0 = s.arg3 → s.arg0.toNat ≤ s.cfg.bufBytes → s.input s.arg0.toNat = some r →
    outputs (exec .decomp s) s s.arg3 r

/-! ### Byte source and sector reader -/

/-- `SrcRead` (20_memory.md R64). -/
def Obligations.SrcReadCases : Prop :=
  ∀ (src : Bytes) (fails : List (Nat × Nat)) (a n : Nat),
    srcRead src fails a 0 = .ok [] ∧
    (0 < n → src.length < a + n → srcRead src fails a n = .error .ioError) ∧
    (0 < n → (a, n) ∈ fails → srcRead src fails a n = .error .ioError) ∧
    (0 < n → a + n ≤ src.length → (a, n) ∉ fails →
      ∃ d, srcRead src fails a n = .ok d ∧ d.length = n ∧ ∀ k < n, d[k]? = src[a + k]?)

/-- RDFILE's operand checks, in their order (44_sector_reader.md R240 to R242, 60_exceptions.md R285). -/
def Obligations.RdfileOperandErrors : Prop :=
  ∀ s : State,
    (22 < s.arg0.toNat → failsOutput (exec .rdfile s) s .badArgument) ∧
    (s.arg0.toNat ≤ 22 → s.cfg.bufBytes < s.arg3.toNat → failsOutput (exec .rdfile s) s .outputOverflow) ∧
    (s.arg0.toNat ≤ 22 → s.arg3.toNat ≤ s.cfg.bufBytes → s.arg4 &&& 0x80000000 = 0 →
      failsOutput (exec .rdfile s) s .absent) ∧
    (s.arg0.toNat ≤ 22 → s.arg3.toNat ≤ s.cfg.bufBytes → s.arg4 &&& 0x80000000 ≠ 0 → s.arg4 &&& 0x02000000 ≠ 0 →
      failsOutput (exec .rdfile s) s .deleted)

/-- An empty file completes with OK and an empty result, whatever its other operands and whatever the byte source
(44_sector_reader.md R249). -/
def Obligations.RdfileEmptyFile : Prop :=
  ∀ s : State, s.arg0.toNat ≤ 22 → s.arg3 = 0 → s.arg4 &&& 0x80000000 ≠ 0 → s.arg4 &&& 0x02000000 = 0 →
    outputs (exec .rdfile s) s 0 []

/-- A single-unit file: read whole, decrypted with the key itself, decoded; the errors of its read and of its decoding
(44_sector_reader.md R243, R251). -/
def Obligations.RdfileSingleUnit : Prop :=
  ∀ s : State, fileOperands s → s.arg4 &&& 0x01000000 ≠ 0 →
    (¬ readsWell s s.arg1.toNat s.arg2.toNat → failsOutput (exec .rdfile s) s .ioError) ∧
    (readsWell s s.arg1.toNat s.arg2.toNat →
      (∀ out, decodeSector s.cfg.codecOrder (decrypted s s.arg5 (slice s s.arg1.toNat s.arg2.toNat)) s.arg3.toNat s.arg4
          = .ok out → outputs (exec .rdfile s) s s.arg3 out) ∧
      (∀ x, decodeSector s.cfg.codecOrder (decrypted s s.arg5 (slice s s.arg1.toNat s.arg2.toNat)) s.arg3.toNat s.arg4
          = .error x → failsOutput (exec .rdfile s) s x))

/-- RDFILE completes with OK on a stored, unencrypted single-unit file and gives back the source's bytes (44_sector_reader.md R252, R243,
43_decompress.md R201). -/
def Obligations.RdfileStoredFile : Prop :=
  ∀ s : State, fileOperands s → s.arg4 &&& 0x01000000 ≠ 0 → s.arg4 &&& 0x00010000 = 0 → s.arg2 = s.arg3 →
    s.arg1.toNat + s.arg3.toNat ≤ s.src.length → (s.arg1.toNat, s.arg3.toNat) ∉ s.srcFail →
    outputs (exec .rdfile s) s s.arg3 (slice s s.arg1.toNat s.arg3.toNat)

/-- A sectored file: if its offsets can be had and every sector `i` is read, decrypted with `key + i` and decoded to `piece i`, RDFILE
completes with OK and OBUF holds the pieces in order (44_sector_reader.md R244, R245). -/
def Obligations.RdfileSectoredFile : Prop :=
  ∀ (s : State) (off : List Nat) (piece : Nat → Bytes), fileOperands s → s.arg4 &&& 0x01000000 = 0 → fileOffsets s off →
    (∀ i < sectorCount s,
      readsWell s (s.arg1.toNat + off.getD i 0) (off.getD (i + 1) 0 - off.getD i 0) ∧
      decodeSector s.cfg.codecOrder
        (decrypted s (s.arg5 + BitVec.ofNat 32 i)
          (slice s (s.arg1.toNat + off.getD i 0) (off.getD (i + 1) 0 - off.getD i 0)))
        (min (sectorSize s) (s.arg3.toNat - i * sectorSize s)) s.arg4 = .ok (piece i)) →
    outputs (exec .rdfile s) s s.arg3 ((List.range (sectorCount s)).flatMap piece)

/-- The first sector that fails ends the command with its code, whatever the later sectors hold (44_sector_reader.md R251). -/
def Obligations.FirstFailingSectorEnds : Prop :=
  ∀ (s : State) (off : List Nat) (k : Nat) (x : Code) (piece : Nat → Bytes),
    fileOperands s → s.arg4 &&& 0x01000000 = 0 → fileOffsets s off → k < sectorCount s →
    (∀ i < k,
      readsWell s (s.arg1.toNat + off.getD i 0) (off.getD (i + 1) 0 - off.getD i 0) ∧
      decodeSector s.cfg.codecOrder
        (decrypted s (s.arg5 + BitVec.ofNat 32 i)
          (slice s (s.arg1.toNat + off.getD i 0) (off.getD (i + 1) 0 - off.getD i 0)))
        (min (sectorSize s) (s.arg3.toNat - i * sectorSize s)) s.arg4 = .ok (piece i)) →
    ((¬ readsWell s (s.arg1.toNat + off.getD k 0) (off.getD (k + 1) 0 - off.getD k 0) ∧ x = .ioError) ∨
     (readsWell s (s.arg1.toNat + off.getD k 0) (off.getD (k + 1) 0 - off.getD k 0) ∧
      decodeSector s.cfg.codecOrder
        (decrypted s (s.arg5 + BitVec.ofNat 32 k)
          (slice s (s.arg1.toNat + off.getD k 0) (off.getD (k + 1) 0 - off.getD k 0)))
        (min (sectorSize s) (s.arg3.toNat - k * sectorSize s)) s.arg4 = .error x)) →
    failsOutput (exec .rdfile s) s x

/-- A sectored file whose table cannot be read ends with IO_ERROR; one whose table is implausible ends with DECODE_ERROR; and which
files carry a table (44_sector_reader.md R246, R247, R251). -/
def Obligations.ImplausibleTableIsAnError : Prop :=
  ∀ s : State, fileOperands s → s.arg4 &&& 0x01000000 = 0 →
    s.cfg.offsetTable = .always ∨ s.arg4 &&& 0x00000300 ≠ 0 →
    (¬ readsWell s s.arg1.toNat (4 * (sectorCount s + 1)) → failsOutput (exec .rdfile s) s .ioError) ∧
    (readsWell s s.arg1.toNat (4 * (sectorCount s + 1)) → (¬ ∃ off, fileOffsets s off) →
      failsOutput (exec .rdfile s) s .decodeError)

/-- The expected lengths of a file's sectors: whole sectors, a last one of 1 to a whole sector's bytes, the file's size in sum
(44_sector_reader.md R248). -/
def Obligations.ExpectedLengthsSumToTheFile : Prop :=
  ∀ j : ReadJob, 0 < j.usize →
    (∀ i, i + 1 < j.sectorCount → j.expected i = j.sectorSize) ∧
    j.expected (j.sectorCount - 1) = j.usize - (j.sectorCount - 1) * j.sectorSize ∧
    1 ≤ j.expected (j.sectorCount - 1) ∧ j.expected (j.sectorCount - 1) ≤ j.sectorSize ∧
    ((List.range j.sectorCount).map j.expected).sum = j.usize
end

