-- ==== Sys2Proof/Laws/Bits.lean ====
section
/-! SUPPORT. The laws of byte order and of flag masks: words and their bytes give each other back. -/

namespace Sys2Proof.Machine

/-- A flag is set exactly when the masked word is not zero (30_encoding.md R100). -/
theorem hasBits_iff (f mask : Word) : hasBits f mask = true ↔ f &&& mask ≠ 0 := by simp [hasBits]

theorem hasBits_false_iff (f mask : Word) : hasBits f mask = false ↔ f &&& mask = 0 := by simp [hasBits]

/-- A word is made of its own bytes. -/
theorem le32_byteOfWord (w : Word) : le32 (byteOfWord w 0) (byteOfWord w 1) (byteOfWord w 2) (byteOfWord w 3) = w := by
  simp only [le32, byteOfWord]
  apply BitVec.eq_of_getLsbD_eq
  intro i hi
  simp only [BitVec.getLsbD_append, BitVec.getLsbD_extractLsb']
  interval_cases i <;> simp

/-- The bytes of a word made of four bytes are those. -/
theorem bytesOfWord_le32 (a b c d : Byte) : bytesOfWord (le32 a b c d) = [a, b, c, d] := by
  simp only [bytesOfWord, byteOfWord, le32, List.cons.injEq, and_true]
  refine ⟨?_, ?_, ?_, ?_⟩ <;>
  · apply BitVec.eq_of_getLsbD_eq
    intro i hi
    simp only [BitVec.getLsbD_extractLsb', BitVec.getLsbD_append]
    interval_cases i <;> simp

/-- `Words` gives back the words that `Unwords` wrote, whatever tail of up to three bytes follows (00_scope.md R12). -/
theorem wordsOf_unwords_append (ws : List Word) (tail : Bytes) (h : tail.length < 4) : wordsOf (unwords ws ++ tail) = ws := by
  induction ws with
  | nil =>
    match tail, h with
    | [], _ => rfl
    | [_], _ => rfl
    | [_, _], _ => rfl
    | [_, _, _], _ => rfl
  | cons w ws ih =>
    rw [unwords, List.append_assoc]
    show le32 (byteOfWord w 0) (byteOfWord w 1) (byteOfWord w 2) (byteOfWord w 3) :: wordsOf (unwords ws ++ tail) = w :: ws
    rw [ih, le32_byteOfWord]

/-- `Unwords` gives back a byte string of whole words (00_scope.md R12). -/
theorem unwords_wordsOf : ∀ bs : Bytes, bs.length % 4 = 0 → unwords (wordsOf bs) = bs
  | [], _ => rfl
  | [_], h => by simp at h
  | [_, _], h => by simp at h
  | [_, _, _], h => by simp at h
  | a :: b :: c :: d :: rest, h => by
    rw [wordsOf, unwords, bytesOfWord_le32, unwords_wordsOf rest (by simp at h; omega)]
    rfl

/-- The value of four bytes, most significant first (00_scope.md R12). -/
theorem be32_toNat (a b c d : Byte) :
    (be32 a b c d).toNat = ((a.toNat * 256 + b.toNat) * 256 + c.toNat) * 256 + d.toNat := by
  show (a ++ b ++ c ++ d : BitVec (8 + 8 + 8 + 8)).toNat = _
  have shift : ∀ x y : Nat, y < 256 → (x * 256 ||| y) = x * 256 + y := by
    intro x y hy
    rw [show x * 256 = 2 ^ 8 * x by omega, Nat.two_pow_add_eq_or_of_lt (by simpa using hy)]
  have := b.isLt; have := c.isLt; have := d.isLt
  rw [BitVec.toNat_append, BitVec.toNat_append, BitVec.toNat_append]
  simp only [Nat.shiftLeft_eq, Nat.reducePow]
  rw [shift _ _ (by omega), shift _ _ (by omega), shift _ _ (by omega)]

/-! ### The value of a bus access -/

theorem leValue_getLsbD (bs : Bytes) : ∀ j, j < 32 → (leValue bs).getLsbD j = (bs.getD (j / 8) 0).getLsbD (j % 8) := by
  induction bs with
  | nil => intro j _; simp [leValue]
  | cons b bs ih =>
    intro j hj
    simp only [leValue, BitVec.getLsbD_or, BitVec.getLsbD_shiftLeft, BitVec.getLsbD_setWidth]
    by_cases h8 : j < 8
    · simp [h8, hj, Nat.div_eq_of_lt h8, Nat.mod_eq_of_lt h8]
    · obtain ⟨m, rfl⟩ := Nat.exists_eq_add_of_le (show 8 ≤ j by omega)
      rw [Nat.add_sub_cancel_left, ih m (by omega), show (8 + m) / 8 = m / 8 + 1 by omega, Nat.add_mod_left]
      simp [hj]

/-- The value of an access of at most four bytes has byte `k` at its bits 8k+7 to 8k, and nothing above. -/
theorem leValue_bytes (bs : Bytes) (h4 : bs.length ≤ 4) :
    (leValue bs).toNat < 2 ^ (8 * bs.length) ∧
    ∀ k < bs.length, some ((leValue bs).extractLsb' (8 * k) 8) = bs[k]? := by
  refine ⟨Nat.lt_pow_two_of_testBit _ fun j hj => ?_, fun k hk => ?_⟩
  · by_cases h32 : j < 32
    · have h0 : bs.getD (j / 8) 0 = 0 := List.getD_eq_default _ _ (by omega)
      have := leValue_getLsbD bs j h32
      rw [h0] at this
      exact this.trans (by simp)
    · exact Nat.testBit_lt_two_pow (Nat.lt_of_lt_of_le (leValue bs).isLt (Nat.pow_le_pow_right (by omega) (by omega)))
  · rw [List.getElem?_eq_getElem hk]
    congr 1
    apply BitVec.eq_of_getLsbD_eq
    intro i hi
    rw [BitVec.getLsbD_extractLsb', leValue_getLsbD _ _ (by omega), show (8 * k + i) / 8 = k by omega,
      show (8 * k + i) % 8 = i by omega, List.getD_eq_getElem _ _ hk]
    simp [hi]

end Sys2Proof.Machine
end

