-- ==== Sys2Proof/Laws/Memory.lean ====
section
/-! SUPPORT. The laws of a buffer: what a read gives after a write, and that every operation keeps the canonical form. -/

namespace Sys2Proof.Machine

@[simp] theorem Memory.read_nil (a : Nat) : Memory.read [] a = none := rfl

/-- A read after a write gives the byte written there, and elsewhere what it gave before. -/
theorem Memory.read_write (m : Memory) (a : Nat) (b : Byte) (x : Nat) :
    (m.write a b).read x = if x = a then some b else m.read x := by
  induction m with
  | nil => simp [Memory.write, Memory.read, eq_comm]
  | cons c m ih =>
    unfold Memory.write
    split
    · simp [Memory.read, eq_comm]
    · split
      · subst a; by_cases hx : x = c.1 <;> simp [Memory.read, hx, eq_comm]
      · by_cases hx : c.1 = x
        · subst hx; simp_all [Memory.read, eq_comm]
        · simp [Memory.read, hx, ih]

/-- A read after bytes were written from offset `a` up gives the byte written there, and elsewhere what it gave before. -/
theorem Memory.read_writeBytes (bs : Bytes) : ∀ (m : Memory) (a x : Nat),
    (m.writeBytes a bs).read x = if a ≤ x ∧ x < a + bs.length then bs[x - a]? else m.read x := by
  induction bs with
  | nil => intro m a x; simp [Memory.writeBytes]
  | cons b bs ih =>
    intro m a x
    rw [Memory.writeBytes, ih, Memory.read_write]
    by_cases h1 : a + 1 ≤ x ∧ x < a + 1 + bs.length
    · rw [if_pos h1, if_pos (by simp; omega), show x - a = (x - (a + 1)) + 1 by omega, List.getElem?_cons_succ]
    · rw [if_neg h1]
      by_cases h2 : x = a
      · subst h2; simp
      · rw [if_neg h2, if_neg (by simp; omega)]

/-- A buffer made of bytes holds them from its first offset up and nothing else. -/
theorem Memory.read_ofBytes (bs : Bytes) : ∀ (a x : Nat),
    (Memory.ofBytes a bs).read x = if a ≤ x then bs[x - a]? else none := by
  induction bs with
  | nil => intro a x; simp [Memory.ofBytes]
  | cons b bs ih =>
    intro a x
    rw [Memory.ofBytes, Memory.read, ih]
    by_cases h1 : a = x
    · subst h1; simp
    · simp only [h1, if_false]
      by_cases h2 : a + 1 ≤ x
      · rw [if_pos h2, if_pos (by omega), show x - a = (x - (a + 1)) + 1 by omega, List.getElem?_cons_succ]
      · rw [if_neg h2, if_neg (by omega)]

/-- What reading a range of a buffer says of it: every byte of the range, in order. -/
theorem Memory.readBytes_eq_some (m : Memory) (n : Nat) : ∀ (a : Nat) (bs : Bytes),
    m.readBytes a n = some bs ↔ bs.length = n ∧ ∀ k, k < n → m.read (a + k) = bs[k]? := by
  induction n with
  | zero =>
    intro a bs
    simp [Memory.readBytes]
  | succ n ih =>
    intro a bs
    rw [Memory.readBytes]
    constructor
    · intro h
      split at h
      · rename_i b bs' hb hbs
        obtain rfl := (Option.some.inj h).symm
        obtain ⟨hl, hk⟩ := (ih (a + 1) bs').mp hbs
        refine ⟨by simp [hl], fun k hkn => ?_⟩
        cases k with
        | zero => simpa using hb
        | succ k => simpa [Nat.add_assoc, Nat.add_comm 1 k] using hk k (by omega)
      · cases h
    · rintro ⟨hl, hk⟩
      cases bs with
      | nil => simp at hl
      | cons b bs =>
        have h0 := hk 0 (by omega)
        have hrest : m.readBytes (a + 1) n = some bs :=
          (ih (a + 1) bs).mpr ⟨by simpa using hl, fun k hkn => by
            simpa [Nat.add_assoc, Nat.add_comm 1 k] using hk (k + 1) (by omega)⟩
        simp only [Nat.add_zero, List.getElem?_cons_zero] at h0
        rw [h0, hrest]

/-- Reading a range fails exactly when a byte of it is unspecified. -/
theorem Memory.readBytes_eq_none (m : Memory) (n : Nat) : ∀ a : Nat,
    m.readBytes a n = none ↔ ∃ k, k < n ∧ m.read (a + k) = none := by
  induction n with
  | zero => intro a; simp [Memory.readBytes]
  | succ n ih =>
    intro a
    rw [Memory.readBytes]
    constructor
    · intro h
      cases hb : m.read a with
      | none => exact ⟨0, by omega, by simpa using hb⟩
      | some b =>
        cases hbs : m.readBytes (a + 1) n with
        | none =>
          obtain ⟨k, hk, hr⟩ := (ih (a + 1)).mp hbs
          exact ⟨k + 1, by omega, by simpa [Nat.add_assoc, Nat.add_comm 1 k] using hr⟩
        | some bs => rw [hb, hbs] at h; cases h
    · rintro ⟨k, hk, hr⟩
      cases k with
      | zero => rw [Nat.add_zero] at hr; rw [hr]
      | succ k =>
        have : m.readBytes (a + 1) n = none :=
          (ih (a + 1)).mpr ⟨k, by omega, by simpa [Nat.add_assoc, Nat.add_comm 1 k] using hr⟩
        rw [this]; cases m.read a <;> rfl

/-- A range just written reads as the bytes written. -/
theorem Memory.readBytes_writeBytes (m : Memory) (a : Nat) (bs : Bytes) :
    (m.writeBytes a bs).readBytes a bs.length = some bs := by
  rw [Memory.readBytes_eq_some]
  refine ⟨rfl, fun k hk => ?_⟩
  rw [Memory.read_writeBytes, if_pos (by omega), Nat.add_sub_cancel_left]

/-- A buffer made of bytes reads as them. -/
theorem Memory.readBytes_ofBytes (a : Nat) (bs : Bytes) : (Memory.ofBytes a bs).readBytes a bs.length = some bs := by
  rw [Memory.readBytes_eq_some]
  refine ⟨rfl, fun k _ => ?_⟩
  rw [Memory.read_ofBytes, if_pos (by omega), Nat.add_sub_cancel_left]

/-! ### The canonical form -/

theorem Memory.wf_cons (c : Host.Cell) (m : Memory) :
    Memory.wf (c :: m) = true ↔ (∀ d ∈ m.head?, c.1 < d.1) ∧ m.wf = true := by
  cases m with
  | nil => simp [Memory.wf]
  | cons d m => simp [Memory.wf]

theorem Memory.head_write (m : Memory) (a : Nat) (b : Byte) :
    ∀ d ∈ (m.write a b).head?, d.1 = a ∨ ∃ e ∈ m.head?, d = e := by
  cases m with
  | nil => simp [Memory.write]
  | cons c m =>
    unfold Memory.write
    split
    · simp
    · split <;> simp

theorem Memory.wf_write (m : Memory) (a : Nat) (b : Byte) (h : m.wf = true) : (m.write a b).wf = true := by
  induction m with
  | nil => rfl
  | cons c m ih =>
    obtain ⟨hc, hm⟩ := (Memory.wf_cons c m).mp h
    unfold Memory.write
    split
    · rename_i hlt
      exact (Memory.wf_cons _ _).mpr ⟨by simpa using hlt, h⟩
    · split
      · rename_i he
        exact (Memory.wf_cons _ _).mpr ⟨by simpa [he] using hc, hm⟩
      · refine (Memory.wf_cons _ _).mpr ⟨fun d hd => ?_, ih hm⟩
        rcases Memory.head_write m a b d hd with he | ⟨e, he, rfl⟩
        · omega
        · exact hc _ he

theorem Memory.wf_writeBytes (bs : Bytes) : ∀ (m : Memory) (a : Nat), m.wf = true → (m.writeBytes a bs).wf = true := by
  induction bs with
  | nil => intro m a h; exact h
  | cons b bs ih => intro m a h; exact ih _ _ (Memory.wf_write m a b h)

theorem Memory.wf_ofBytes (bs : Bytes) : ∀ a : Nat, (Memory.ofBytes a bs).wf = true := by
  induction bs with
  | nil => intro a; rfl
  | cons b bs ih =>
    intro a
    refine (Memory.wf_cons _ _).mpr ⟨fun d hd => ?_, ih (a + 1)⟩
    cases bs with
    | nil => simp [Memory.ofBytes] at hd
    | cons b' bs =>
      simp [Memory.ofBytes] at hd
      subst hd; simp

/-! ### The size of a buffer -/

theorem Memory.inside_nil (n : Nat) : Memory.inside [] n := by simp [Memory.inside]

theorem Memory.inside_write (m : Memory) (a n : Nat) (b : Byte) (h : m.inside n) (ha : a < n) :
    (m.write a b).inside n := by
  induction m with
  | nil => simpa [Memory.write, Memory.inside] using ha
  | cons c m ih =>
    have hc : c.1 < n := h c (by simp)
    have hm : Memory.inside m n := fun d hd => h d (by simp [hd])
    unfold Memory.write
    split
    · intro d hd
      rcases List.mem_cons.mp hd with rfl | hd
      · exact ha
      · exact h d hd
    · split
      · intro d hd
        rcases List.mem_cons.mp hd with rfl | hd
        · exact ha
        · exact hm d hd
      · intro d hd
        rcases List.mem_cons.mp hd with rfl | hd
        · exact hc
        · exact ih hm d hd

theorem Memory.inside_writeBytes (bs : Bytes) : ∀ (m : Memory) (a n : Nat), m.inside n → a + bs.length ≤ n →
    (m.writeBytes a bs).inside n := by
  induction bs with
  | nil => intro m a n h _; exact h
  | cons b bs ih =>
    intro m a n h ha
    simp only [List.length_cons] at ha
    exact ih _ _ _ (Memory.inside_write m a n b h (by omega)) (by omega)

theorem Memory.inside_ofBytes (bs : Bytes) : ∀ (a n : Nat), a + bs.length ≤ n → (Memory.ofBytes a bs).inside n := by
  induction bs with
  | nil => intro a n _; exact Memory.inside_nil n
  | cons b bs ih =>
    intro a n ha d hd
    simp only [List.length_cons] at ha
    rcases List.mem_cons.mp hd with rfl | hd
    · show a < n; omega
    · exact ih (a + 1) n (by omega) d hd

end Sys2Proof.Machine
end

