-- ==== Sys2Proof/Laws/State.lean ====
section
/-! SUPPORT. What each shared update of the state leaves in each field, so that no proof unfolds a record update. -/

namespace Sys2Proof.Machine

/-! ### accept -/

@[simp] theorem State.accept_cmd (v : Word) (s : State) : (s.accept v).cmd = v := rfl
@[simp] theorem State.accept_status (v : Word) (s : State) : (s.accept v).status = s.status.accepted := rfl
@[simp] theorem State.accept_ctrl (v : Word) (s : State) : (s.accept v).ctrl = s.ctrl := rfl
@[simp] theorem State.accept_arg0 (v : Word) (s : State) : (s.accept v).arg0 = s.arg0 := rfl
@[simp] theorem State.accept_arg1 (v : Word) (s : State) : (s.accept v).arg1 = s.arg1 := rfl
@[simp] theorem State.accept_arg2 (v : Word) (s : State) : (s.accept v).arg2 = s.arg2 := rfl
@[simp] theorem State.accept_arg3 (v : Word) (s : State) : (s.accept v).arg3 = s.arg3 := rfl
@[simp] theorem State.accept_arg4 (v : Word) (s : State) : (s.accept v).arg4 = s.arg4 := rfl
@[simp] theorem State.accept_arg5 (v : Word) (s : State) : (s.accept v).arg5 = s.arg5 := rfl
@[simp] theorem State.accept_res0 (v : Word) (s : State) : (s.accept v).res0 = 0 := rfl
@[simp] theorem State.accept_res1 (v : Word) (s : State) : (s.accept v).res1 = 0 := rfl
@[simp] theorem State.accept_res2 (v : Word) (s : State) : (s.accept v).res2 = 0 := rfl
@[simp] theorem State.accept_ibuf (v : Word) (s : State) : (s.accept v).ibuf = s.ibuf := rfl
@[simp] theorem State.accept_obuf (v : Word) (s : State) : (s.accept v).obuf = s.obuf := rfl
@[simp] theorem State.accept_units (v : Word) (s : State) : (s.accept v).units = s.units := rfl
@[simp] theorem State.accept_cfg (v : Word) (s : State) : (s.accept v).cfg = s.cfg := rfl
@[simp] theorem State.accept_src (v : Word) (s : State) : (s.accept v).src = s.src := rfl
@[simp] theorem State.accept_srcFail (v : Word) (s : State) :
    (s.accept v).srcFail = s.srcDraws.headD (Config.failing s.draws) := rfl
@[simp] theorem State.accept_srcDraws (v : Word) (s : State) : (s.accept v).srcDraws = s.srcDraws.tail := rfl
@[simp] theorem State.accept_sched (v : Word) (s : State) : (s.accept v).sched = s.sched := rfl
@[simp] theorem State.accept_reply (v : Word) (s : State) : (s.accept v).reply = s.reply := rfl
@[simp] theorem State.accept_lastRead (v : Word) (s : State) : (s.accept v).lastRead = s.lastRead := rfl
@[simp] theorem State.accept_draws (v : Word) (s : State) : (s.accept v).draws = s.draws + 1 := rfl

/-! ### dropWrite -/

@[simp] theorem State.dropWrite_cmd (s : State) : (s.dropWrite).cmd = s.cmd := rfl
@[simp] theorem State.dropWrite_status (s : State) : (s.dropWrite).status = s.status.dropped := rfl
@[simp] theorem State.dropWrite_ctrl (s : State) : (s.dropWrite).ctrl = s.ctrl := rfl
@[simp] theorem State.dropWrite_arg0 (s : State) : (s.dropWrite).arg0 = s.arg0 := rfl
@[simp] theorem State.dropWrite_arg1 (s : State) : (s.dropWrite).arg1 = s.arg1 := rfl
@[simp] theorem State.dropWrite_arg2 (s : State) : (s.dropWrite).arg2 = s.arg2 := rfl
@[simp] theorem State.dropWrite_arg3 (s : State) : (s.dropWrite).arg3 = s.arg3 := rfl
@[simp] theorem State.dropWrite_arg4 (s : State) : (s.dropWrite).arg4 = s.arg4 := rfl
@[simp] theorem State.dropWrite_arg5 (s : State) : (s.dropWrite).arg5 = s.arg5 := rfl
@[simp] theorem State.dropWrite_res0 (s : State) : (s.dropWrite).res0 = s.res0 := rfl
@[simp] theorem State.dropWrite_res1 (s : State) : (s.dropWrite).res1 = s.res1 := rfl
@[simp] theorem State.dropWrite_res2 (s : State) : (s.dropWrite).res2 = s.res2 := rfl
@[simp] theorem State.dropWrite_ibuf (s : State) : (s.dropWrite).ibuf = s.ibuf := rfl
@[simp] theorem State.dropWrite_obuf (s : State) : (s.dropWrite).obuf = s.obuf := rfl
@[simp] theorem State.dropWrite_units (s : State) : (s.dropWrite).units = s.units := rfl
@[simp] theorem State.dropWrite_cfg (s : State) : (s.dropWrite).cfg = s.cfg := rfl
@[simp] theorem State.dropWrite_src (s : State) : (s.dropWrite).src = s.src := rfl
@[simp] theorem State.dropWrite_srcFail (s : State) : (s.dropWrite).srcFail = s.srcFail := rfl
@[simp] theorem State.dropWrite_srcDraws (s : State) : (s.dropWrite).srcDraws = s.srcDraws := rfl
@[simp] theorem State.dropWrite_sched (s : State) : (s.dropWrite).sched = s.sched := rfl
@[simp] theorem State.dropWrite_reply (s : State) : (s.dropWrite).reply = s.reply := rfl
@[simp] theorem State.dropWrite_lastRead (s : State) : (s.dropWrite).lastRead = s.lastRead := rfl
@[simp] theorem State.dropWrite_draws (s : State) : (s.dropWrite).draws = s.draws := rfl

/-! ### complete -/

@[simp] theorem State.complete_cmd (k : Code) (s : State) : (s.complete k).cmd = s.cmd := rfl
@[simp] theorem State.complete_status (k : Code) (s : State) : (s.complete k).status = s.status.completed k := rfl
@[simp] theorem State.complete_ctrl (k : Code) (s : State) : (s.complete k).ctrl = s.ctrl := rfl
@[simp] theorem State.complete_arg0 (k : Code) (s : State) : (s.complete k).arg0 = s.arg0 := rfl
@[simp] theorem State.complete_arg1 (k : Code) (s : State) : (s.complete k).arg1 = s.arg1 := rfl
@[simp] theorem State.complete_arg2 (k : Code) (s : State) : (s.complete k).arg2 = s.arg2 := rfl
@[simp] theorem State.complete_arg3 (k : Code) (s : State) : (s.complete k).arg3 = s.arg3 := rfl
@[simp] theorem State.complete_arg4 (k : Code) (s : State) : (s.complete k).arg4 = s.arg4 := rfl
@[simp] theorem State.complete_arg5 (k : Code) (s : State) : (s.complete k).arg5 = s.arg5 := rfl
@[simp] theorem State.complete_res0 (k : Code) (s : State) : (s.complete k).res0 = s.res0 := rfl
@[simp] theorem State.complete_res1 (k : Code) (s : State) : (s.complete k).res1 = s.res1 := rfl
@[simp] theorem State.complete_res2 (k : Code) (s : State) : (s.complete k).res2 = s.res2 := rfl
@[simp] theorem State.complete_ibuf (k : Code) (s : State) : (s.complete k).ibuf = s.ibuf := rfl
@[simp] theorem State.complete_obuf (k : Code) (s : State) : (s.complete k).obuf = s.obuf := rfl
@[simp] theorem State.complete_units (k : Code) (s : State) : (s.complete k).units = Units.cleared := rfl
@[simp] theorem State.complete_cfg (k : Code) (s : State) : (s.complete k).cfg = s.cfg := rfl
@[simp] theorem State.complete_src (k : Code) (s : State) : (s.complete k).src = s.src := rfl
@[simp] theorem State.complete_srcFail (k : Code) (s : State) : (s.complete k).srcFail = s.srcFail := rfl
@[simp] theorem State.complete_srcDraws (k : Code) (s : State) : (s.complete k).srcDraws = s.srcDraws := rfl
@[simp] theorem State.complete_sched (k : Code) (s : State) : (s.complete k).sched = s.sched := rfl
@[simp] theorem State.complete_reply (k : Code) (s : State) : (s.complete k).reply = s.reply := rfl
@[simp] theorem State.complete_lastRead (k : Code) (s : State) : (s.complete k).lastRead = s.lastRead := rfl
@[simp] theorem State.complete_draws (k : Code) (s : State) : (s.complete k).draws = s.draws := rfl

/-! ### completeError -/

@[simp] theorem State.completeError_cmd (k : Code) (s : State) : (s.completeError k).cmd = s.cmd := rfl
@[simp] theorem State.completeError_status (k : Code) (s : State) : (s.completeError k).status = s.status.completed k := rfl
@[simp] theorem State.completeError_ctrl (k : Code) (s : State) : (s.completeError k).ctrl = s.ctrl := rfl
@[simp] theorem State.completeError_arg0 (k : Code) (s : State) : (s.completeError k).arg0 = s.arg0 := rfl
@[simp] theorem State.completeError_arg1 (k : Code) (s : State) : (s.completeError k).arg1 = s.arg1 := rfl
@[simp] theorem State.completeError_arg2 (k : Code) (s : State) : (s.completeError k).arg2 = s.arg2 := rfl
@[simp] theorem State.completeError_arg3 (k : Code) (s : State) : (s.completeError k).arg3 = s.arg3 := rfl
@[simp] theorem State.completeError_arg4 (k : Code) (s : State) : (s.completeError k).arg4 = s.arg4 := rfl
@[simp] theorem State.completeError_arg5 (k : Code) (s : State) : (s.completeError k).arg5 = s.arg5 := rfl
@[simp] theorem State.completeError_res0 (k : Code) (s : State) : (s.completeError k).res0 = s.res0 := rfl
@[simp] theorem State.completeError_res1 (k : Code) (s : State) : (s.completeError k).res1 = s.res1 := rfl
@[simp] theorem State.completeError_res2 (k : Code) (s : State) : (s.completeError k).res2 = s.res2 := rfl
@[simp] theorem State.completeError_ibuf (k : Code) (s : State) : (s.completeError k).ibuf = s.ibuf := rfl
@[simp] theorem State.completeError_obuf (k : Code) (s : State) : (s.completeError k).obuf = [] := rfl
@[simp] theorem State.completeError_units (k : Code) (s : State) : (s.completeError k).units = Units.cleared := rfl
@[simp] theorem State.completeError_cfg (k : Code) (s : State) : (s.completeError k).cfg = s.cfg := rfl
@[simp] theorem State.completeError_src (k : Code) (s : State) : (s.completeError k).src = s.src := rfl
@[simp] theorem State.completeError_srcFail (k : Code) (s : State) : (s.completeError k).srcFail = s.srcFail := rfl
@[simp] theorem State.completeError_srcDraws (k : Code) (s : State) : (s.completeError k).srcDraws = s.srcDraws := rfl
@[simp] theorem State.completeError_sched (k : Code) (s : State) : (s.completeError k).sched = s.sched := rfl
@[simp] theorem State.completeError_reply (k : Code) (s : State) : (s.completeError k).reply = s.reply := rfl
@[simp] theorem State.completeError_lastRead (k : Code) (s : State) : (s.completeError k).lastRead = s.lastRead := rfl
@[simp] theorem State.completeError_draws (k : Code) (s : State) : (s.completeError k).draws = s.draws := rfl

/-! ### completeOutput -/

@[simp] theorem State.completeOutput_cmd (n : Word) (out : Bytes) (s : State) : (s.completeOutput n out).cmd = s.cmd := rfl
@[simp] theorem State.completeOutput_status (n : Word) (out : Bytes) (s : State) : (s.completeOutput n out).status = s.status.completed .ok := rfl
@[simp] theorem State.completeOutput_ctrl (n : Word) (out : Bytes) (s : State) : (s.completeOutput n out).ctrl = s.ctrl := rfl
@[simp] theorem State.completeOutput_arg0 (n : Word) (out : Bytes) (s : State) : (s.completeOutput n out).arg0 = s.arg0 := rfl
@[simp] theorem State.completeOutput_arg1 (n : Word) (out : Bytes) (s : State) : (s.completeOutput n out).arg1 = s.arg1 := rfl
@[simp] theorem State.completeOutput_arg2 (n : Word) (out : Bytes) (s : State) : (s.completeOutput n out).arg2 = s.arg2 := rfl
@[simp] theorem State.completeOutput_arg3 (n : Word) (out : Bytes) (s : State) : (s.completeOutput n out).arg3 = s.arg3 := rfl
@[simp] theorem State.completeOutput_arg4 (n : Word) (out : Bytes) (s : State) : (s.completeOutput n out).arg4 = s.arg4 := rfl
@[simp] theorem State.completeOutput_arg5 (n : Word) (out : Bytes) (s : State) : (s.completeOutput n out).arg5 = s.arg5 := rfl
@[simp] theorem State.completeOutput_res0 (n : Word) (out : Bytes) (s : State) : (s.completeOutput n out).res0 = n := rfl
@[simp] theorem State.completeOutput_res1 (n : Word) (out : Bytes) (s : State) : (s.completeOutput n out).res1 = s.res1 := rfl
@[simp] theorem State.completeOutput_res2 (n : Word) (out : Bytes) (s : State) : (s.completeOutput n out).res2 = s.res2 := rfl
@[simp] theorem State.completeOutput_ibuf (n : Word) (out : Bytes) (s : State) : (s.completeOutput n out).ibuf = s.ibuf := rfl
@[simp] theorem State.completeOutput_obuf (n : Word) (out : Bytes) (s : State) : (s.completeOutput n out).obuf = Memory.ofBytes 0 out := rfl
@[simp] theorem State.completeOutput_units (n : Word) (out : Bytes) (s : State) : (s.completeOutput n out).units = Units.cleared := rfl
@[simp] theorem State.completeOutput_cfg (n : Word) (out : Bytes) (s : State) : (s.completeOutput n out).cfg = s.cfg := rfl
@[simp] theorem State.completeOutput_src (n : Word) (out : Bytes) (s : State) : (s.completeOutput n out).src = s.src := rfl
@[simp] theorem State.completeOutput_srcFail (n : Word) (out : Bytes) (s : State) : (s.completeOutput n out).srcFail = s.srcFail := rfl
@[simp] theorem State.completeOutput_srcDraws (n : Word) (out : Bytes) (s : State) : (s.completeOutput n out).srcDraws = s.srcDraws := rfl
@[simp] theorem State.completeOutput_sched (n : Word) (out : Bytes) (s : State) : (s.completeOutput n out).sched = s.sched := rfl
@[simp] theorem State.completeOutput_reply (n : Word) (out : Bytes) (s : State) : (s.completeOutput n out).reply = s.reply := rfl
@[simp] theorem State.completeOutput_lastRead (n : Word) (out : Bytes) (s : State) : (s.completeOutput n out).lastRead = s.lastRead := rfl
@[simp] theorem State.completeOutput_draws (n : Word) (out : Bytes) (s : State) : (s.completeOutput n out).draws = s.draws := rfl

/-! ### withHasher -/

@[simp] theorem State.withHasher_cmd (s : State) (h : Hasher) : (s.withHasher h).cmd = s.cmd := rfl
@[simp] theorem State.withHasher_status (s : State) (h : Hasher) : (s.withHasher h).status = s.status := rfl
@[simp] theorem State.withHasher_ctrl (s : State) (h : Hasher) : (s.withHasher h).ctrl = s.ctrl := rfl
@[simp] theorem State.withHasher_arg0 (s : State) (h : Hasher) : (s.withHasher h).arg0 = s.arg0 := rfl
@[simp] theorem State.withHasher_arg1 (s : State) (h : Hasher) : (s.withHasher h).arg1 = s.arg1 := rfl
@[simp] theorem State.withHasher_arg2 (s : State) (h : Hasher) : (s.withHasher h).arg2 = s.arg2 := rfl
@[simp] theorem State.withHasher_arg3 (s : State) (h : Hasher) : (s.withHasher h).arg3 = s.arg3 := rfl
@[simp] theorem State.withHasher_arg4 (s : State) (h : Hasher) : (s.withHasher h).arg4 = s.arg4 := rfl
@[simp] theorem State.withHasher_arg5 (s : State) (h : Hasher) : (s.withHasher h).arg5 = s.arg5 := rfl
@[simp] theorem State.withHasher_res0 (s : State) (h : Hasher) : (s.withHasher h).res0 = s.res0 := rfl
@[simp] theorem State.withHasher_res1 (s : State) (h : Hasher) : (s.withHasher h).res1 = s.res1 := rfl
@[simp] theorem State.withHasher_res2 (s : State) (h : Hasher) : (s.withHasher h).res2 = s.res2 := rfl
@[simp] theorem State.withHasher_ibuf (s : State) (h : Hasher) : (s.withHasher h).ibuf = s.ibuf := rfl
@[simp] theorem State.withHasher_obuf (s : State) (h : Hasher) : (s.withHasher h).obuf = s.obuf := rfl
@[simp] theorem State.withHasher_units (s : State) (h : Hasher) : (s.withHasher h).units = { s.units with hasher := h } := rfl
@[simp] theorem State.withHasher_cfg (s : State) (h : Hasher) : (s.withHasher h).cfg = s.cfg := rfl
@[simp] theorem State.withHasher_src (s : State) (h : Hasher) : (s.withHasher h).src = s.src := rfl
@[simp] theorem State.withHasher_srcFail (s : State) (h : Hasher) : (s.withHasher h).srcFail = s.srcFail := rfl
@[simp] theorem State.withHasher_srcDraws (s : State) (h : Hasher) : (s.withHasher h).srcDraws = s.srcDraws := rfl
@[simp] theorem State.withHasher_sched (s : State) (h : Hasher) : (s.withHasher h).sched = s.sched := rfl
@[simp] theorem State.withHasher_reply (s : State) (h : Hasher) : (s.withHasher h).reply = s.reply := rfl
@[simp] theorem State.withHasher_lastRead (s : State) (h : Hasher) : (s.withHasher h).lastRead = s.lastRead := rfl
@[simp] theorem State.withHasher_draws (s : State) (h : Hasher) : (s.withHasher h).draws = s.draws := rfl

@[simp] theorem State.hashed_withHasher (s : State) (h : Hasher) : (s.withHasher h).hashed = h.seed1 := rfl

/-! ### withCipher -/

@[simp] theorem State.withCipher_cmd (s : State) (c : Cipher) : (s.withCipher c).cmd = s.cmd := rfl
@[simp] theorem State.withCipher_status (s : State) (c : Cipher) : (s.withCipher c).status = s.status := rfl
@[simp] theorem State.withCipher_ctrl (s : State) (c : Cipher) : (s.withCipher c).ctrl = s.ctrl := rfl
@[simp] theorem State.withCipher_arg0 (s : State) (c : Cipher) : (s.withCipher c).arg0 = s.arg0 := rfl
@[simp] theorem State.withCipher_arg1 (s : State) (c : Cipher) : (s.withCipher c).arg1 = s.arg1 := rfl
@[simp] theorem State.withCipher_arg2 (s : State) (c : Cipher) : (s.withCipher c).arg2 = s.arg2 := rfl
@[simp] theorem State.withCipher_arg3 (s : State) (c : Cipher) : (s.withCipher c).arg3 = s.arg3 := rfl
@[simp] theorem State.withCipher_arg4 (s : State) (c : Cipher) : (s.withCipher c).arg4 = s.arg4 := rfl
@[simp] theorem State.withCipher_arg5 (s : State) (c : Cipher) : (s.withCipher c).arg5 = s.arg5 := rfl
@[simp] theorem State.withCipher_res0 (s : State) (c : Cipher) : (s.withCipher c).res0 = s.res0 := rfl
@[simp] theorem State.withCipher_res1 (s : State) (c : Cipher) : (s.withCipher c).res1 = s.res1 := rfl
@[simp] theorem State.withCipher_res2 (s : State) (c : Cipher) : (s.withCipher c).res2 = s.res2 := rfl
@[simp] theorem State.withCipher_ibuf (s : State) (c : Cipher) : (s.withCipher c).ibuf = s.ibuf := rfl
@[simp] theorem State.withCipher_obuf (s : State) (c : Cipher) : (s.withCipher c).obuf = s.obuf := rfl
@[simp] theorem State.withCipher_units (s : State) (c : Cipher) : (s.withCipher c).units = { s.units with cipher := c } := rfl
@[simp] theorem State.withCipher_cfg (s : State) (c : Cipher) : (s.withCipher c).cfg = s.cfg := rfl
@[simp] theorem State.withCipher_src (s : State) (c : Cipher) : (s.withCipher c).src = s.src := rfl
@[simp] theorem State.withCipher_srcFail (s : State) (c : Cipher) : (s.withCipher c).srcFail = s.srcFail := rfl
@[simp] theorem State.withCipher_srcDraws (s : State) (c : Cipher) : (s.withCipher c).srcDraws = s.srcDraws := rfl
@[simp] theorem State.withCipher_sched (s : State) (c : Cipher) : (s.withCipher c).sched = s.sched := rfl
@[simp] theorem State.withCipher_reply (s : State) (c : Cipher) : (s.withCipher c).reply = s.reply := rfl
@[simp] theorem State.withCipher_lastRead (s : State) (c : Cipher) : (s.withCipher c).lastRead = s.lastRead := rfl
@[simp] theorem State.withCipher_draws (s : State) (c : Cipher) : (s.withCipher c).draws = s.draws := rfl

/-! ### withReadUnits -/

@[simp] theorem State.withReadUnits_cmd (s : State) (u : ReadUnits) : (s.withReadUnits u).cmd = s.cmd := rfl
@[simp] theorem State.withReadUnits_status (s : State) (u : ReadUnits) : (s.withReadUnits u).status = s.status := rfl
@[simp] theorem State.withReadUnits_ctrl (s : State) (u : ReadUnits) : (s.withReadUnits u).ctrl = s.ctrl := rfl
@[simp] theorem State.withReadUnits_arg0 (s : State) (u : ReadUnits) : (s.withReadUnits u).arg0 = s.arg0 := rfl
@[simp] theorem State.withReadUnits_arg1 (s : State) (u : ReadUnits) : (s.withReadUnits u).arg1 = s.arg1 := rfl
@[simp] theorem State.withReadUnits_arg2 (s : State) (u : ReadUnits) : (s.withReadUnits u).arg2 = s.arg2 := rfl
@[simp] theorem State.withReadUnits_arg3 (s : State) (u : ReadUnits) : (s.withReadUnits u).arg3 = s.arg3 := rfl
@[simp] theorem State.withReadUnits_arg4 (s : State) (u : ReadUnits) : (s.withReadUnits u).arg4 = s.arg4 := rfl
@[simp] theorem State.withReadUnits_arg5 (s : State) (u : ReadUnits) : (s.withReadUnits u).arg5 = s.arg5 := rfl
@[simp] theorem State.withReadUnits_res0 (s : State) (u : ReadUnits) : (s.withReadUnits u).res0 = s.res0 := rfl
@[simp] theorem State.withReadUnits_res1 (s : State) (u : ReadUnits) : (s.withReadUnits u).res1 = s.res1 := rfl
@[simp] theorem State.withReadUnits_res2 (s : State) (u : ReadUnits) : (s.withReadUnits u).res2 = s.res2 := rfl
@[simp] theorem State.withReadUnits_ibuf (s : State) (u : ReadUnits) : (s.withReadUnits u).ibuf = s.ibuf := rfl
@[simp] theorem State.withReadUnits_obuf (s : State) (u : ReadUnits) : (s.withReadUnits u).obuf = s.obuf := rfl
@[simp] theorem State.withReadUnits_units (s : State) (u : ReadUnits) : (s.withReadUnits u).units = { s.units with cipher := u.cipher, reader := u.reader } := rfl
@[simp] theorem State.withReadUnits_cfg (s : State) (u : ReadUnits) : (s.withReadUnits u).cfg = s.cfg := rfl
@[simp] theorem State.withReadUnits_src (s : State) (u : ReadUnits) : (s.withReadUnits u).src = s.src := rfl
@[simp] theorem State.withReadUnits_srcFail (s : State) (u : ReadUnits) : (s.withReadUnits u).srcFail = s.srcFail := rfl
@[simp] theorem State.withReadUnits_srcDraws (s : State) (u : ReadUnits) : (s.withReadUnits u).srcDraws = s.srcDraws := rfl
@[simp] theorem State.withReadUnits_sched (s : State) (u : ReadUnits) : (s.withReadUnits u).sched = s.sched := rfl
@[simp] theorem State.withReadUnits_reply (s : State) (u : ReadUnits) : (s.withReadUnits u).reply = s.reply := rfl
@[simp] theorem State.withReadUnits_lastRead (s : State) (u : ReadUnits) : (s.withReadUnits u).lastRead = s.lastRead := rfl
@[simp] theorem State.withReadUnits_draws (s : State) (u : ReadUnits) : (s.withReadUnits u).draws = s.draws := rfl

/-! ### What a command's runs left in the units does not survive its completion (10_state.md R36) -/

@[simp] theorem State.completeError_withReadUnits (k : Code) (s : State) (u : ReadUnits) :
    (s.withReadUnits u).completeError k = s.completeError k := rfl
@[simp] theorem State.completeOutput_withReadUnits (n : Word) (out : Bytes) (s : State) (u : ReadUnits) :
    (s.withReadUnits u).completeOutput n out = s.completeOutput n out := rfl
@[simp] theorem State.completeOutput_withCipher (n : Word) (out : Bytes) (s : State) (c : Cipher) :
    (s.withCipher c).completeOutput n out = s.completeOutput n out := rfl

/-! ### resetCore -/

@[simp] theorem State.resetCore_cmd (s : State) : (s.resetCore).cmd = 0 := rfl
@[simp] theorem State.resetCore_status (s : State) : (s.resetCore).status = Status.cleared := rfl
@[simp] theorem State.resetCore_ctrl (s : State) : (s.resetCore).ctrl = { ie := false } := rfl
@[simp] theorem State.resetCore_arg0 (s : State) : (s.resetCore).arg0 = 0 := rfl
@[simp] theorem State.resetCore_arg1 (s : State) : (s.resetCore).arg1 = 0 := rfl
@[simp] theorem State.resetCore_arg2 (s : State) : (s.resetCore).arg2 = 0 := rfl
@[simp] theorem State.resetCore_arg3 (s : State) : (s.resetCore).arg3 = 0 := rfl
@[simp] theorem State.resetCore_arg4 (s : State) : (s.resetCore).arg4 = 0 := rfl
@[simp] theorem State.resetCore_arg5 (s : State) : (s.resetCore).arg5 = 0 := rfl
@[simp] theorem State.resetCore_res0 (s : State) : (s.resetCore).res0 = 0 := rfl
@[simp] theorem State.resetCore_res1 (s : State) : (s.resetCore).res1 = 0 := rfl
@[simp] theorem State.resetCore_res2 (s : State) : (s.resetCore).res2 = 0 := rfl
@[simp] theorem State.resetCore_ibuf (s : State) : (s.resetCore).ibuf = [] := rfl
@[simp] theorem State.resetCore_obuf (s : State) : (s.resetCore).obuf = [] := rfl
@[simp] theorem State.resetCore_units (s : State) : (s.resetCore).units = Units.cleared := rfl
@[simp] theorem State.resetCore_cfg (s : State) : (s.resetCore).cfg = s.cfg := rfl
@[simp] theorem State.resetCore_src (s : State) : (s.resetCore).src = s.src := rfl
@[simp] theorem State.resetCore_srcFail (s : State) : (s.resetCore).srcFail = s.srcFail := rfl
@[simp] theorem State.resetCore_srcDraws (s : State) : (s.resetCore).srcDraws = s.srcDraws := rfl
@[simp] theorem State.resetCore_sched (s : State) : (s.resetCore).sched = s.sched := rfl
@[simp] theorem State.resetCore_reply (s : State) : (s.resetCore).reply = .none := rfl
@[simp] theorem State.resetCore_lastRead (s : State) : (s.resetCore).lastRead = s.lastRead := rfl
@[simp] theorem State.resetCore_draws (s : State) : (s.resetCore).draws = s.draws := rfl

/-! ### STATUS -/

@[simp] theorem Status.accepted_busy (st : Status) : (st.accepted).busy = true := rfl
@[simp] theorem Status.accepted_done (st : Status) : (st.accepted).done = false := rfl
@[simp] theorem Status.accepted_err (st : Status) : (st.accepted).err = st.err := rfl
@[simp] theorem Status.accepted_errSeen (st : Status) : (st.accepted).errSeen = st.errSeen := rfl
@[simp] theorem Status.accepted_overrun (st : Status) : (st.accepted).overrun = st.overrun := rfl

@[simp] theorem Status.completed_busy (st : Status) (k : Code) : (st.completed k).busy = false := rfl
@[simp] theorem Status.completed_done (st : Status) (k : Code) : (st.completed k).done = true := rfl
@[simp] theorem Status.completed_err (st : Status) (k : Code) : (st.completed k).err = k := rfl
@[simp] theorem Status.completed_errSeen (st : Status) (k : Code) : (st.completed k).errSeen = (st.errSeen || k != .ok) := rfl
@[simp] theorem Status.completed_overrun (st : Status) (k : Code) : (st.completed k).overrun = st.overrun := rfl

@[simp] theorem Status.dropped_busy (st : Status) : (st.dropped).busy = st.busy := rfl
@[simp] theorem Status.dropped_done (st : Status) : (st.dropped).done = st.done := rfl
@[simp] theorem Status.dropped_err (st : Status) : (st.dropped).err = st.err := rfl
@[simp] theorem Status.dropped_errSeen (st : Status) : (st.dropped).errSeen = st.errSeen := rfl
@[simp] theorem Status.dropped_overrun (st : Status) : (st.dropped).overrun = true := rfl

@[simp] theorem Status.written_busy (st : Status) (v : Word) : (st.written v).busy = st.busy := by
  unfold Status.written; split <;> rfl
@[simp] theorem Status.written_err (st : Status) (v : Word) : (st.written v).err = st.err := by
  unfold Status.written; split <;> rfl
@[simp] theorem Status.written_errSeen (st : Status) (v : Word) : (st.written v).errSeen = st.errSeen := by
  unfold Status.written; split <;> rfl
@[simp] theorem Status.written_overrun (st : Status) (v : Word) : (st.written v).overrun = st.overrun := by
  unfold Status.written; split <;> rfl
@[simp] theorem Status.written_done (st : Status) (v : Word) :
    (st.written v).done = (st.done && !v.getLsbD 1) := by
  unfold Status.written; split <;> simp_all

/-! ### A write the busy lock may drop (10_state.md R31) -/

theorem State.unlessBusy_busy (s t : State) (h : s.status.busy = true) : s.unlessBusy t = s.dropWrite := by
  simp [State.unlessBusy, h]

theorem State.unlessBusy_idle (s t : State) (h : s.status.busy = false) : s.unlessBusy t = t := by
  simp [State.unlessBusy, h]

end Sys2Proof.Machine
end

