-- ==== Sys2Proof/Laws/Commands.lean ====
section
/-! SUPPORT. What each shared operation of the commands can do, said once, and the inversion of `exec`: the only ways a
command ends. -/

namespace Sys2Proof.Machine

/-! ### Operands -/

/-- A command that reads its input goes on with the bytes, or stops on a byte nothing has written. -/
theorem withInput_cases (s : State) (n : Nat) (k : Bytes → Result) :
    (∃ bs, s.input n = some bs ∧ s.withInput n k = k bs) ∨
    (s.input n = none ∧ s.withInput n k = .fault .unwrittenInput) := by
  unfold State.withInput
  cases h : s.input n with
  | none => exact .inr ⟨rfl, rfl⟩
  | some bs => exact .inl ⟨bs, rfl, rfl⟩

theorem withInput_some (s : State) (n : Nat) (k : Bytes → Result) (bs : Bytes) (h : s.input n = some bs) :
    s.withInput n k = k bs := by
  simp [State.withInput, h]

theorem withInput_none (s : State) (n : Nat) (k : Bytes → Result) (h : s.input n = none) :
    s.withInput n k = .fault .unwrittenInput := by
  simp [State.withInput, h]

/-- The input has the length asked for. -/
theorem input_length (s : State) (n : Nat) (bs : Bytes) (h : s.input n = some bs) : bs.length = n :=
  ((Memory.readBytes_eq_some _ _ _ _).mp h).1

/-- A path command: BAD_ARGUMENT, or its result, or the fault of an unwritten byte. -/
theorem withPath_cases (s : State) (k : Bytes → State) :
    (s.cfg.bufBytes < s.arg0.toNat ∧ s.withPath k = .next (s.complete .badArgument)) ∨
    (s.arg0.toNat ≤ s.cfg.bufBytes ∧ ∃ p, s.input s.arg0.toNat = some p ∧ s.withPath k = .next (k p)) ∨
    (s.arg0.toNat ≤ s.cfg.bufBytes ∧ s.input s.arg0.toNat = none ∧ s.withPath k = .fault .unwrittenInput) := by
  unfold State.withPath
  split
  · exact .inl ⟨by omega, rfl⟩
  · rcases withInput_cases s s.arg0.toNat (fun p => .next (k p)) with ⟨p, hp, he⟩ | ⟨hn, he⟩
    · exact .inr (.inl ⟨by omega, p, hp, he⟩)
    · exact .inr (.inr ⟨by omega, hn, he⟩)

/-- A path command whose operands are legal. -/
theorem withPath_ok (s : State) (k : Bytes → State) (p : Bytes) (h : s.arg0.toNat ≤ s.cfg.bufBytes)
    (hp : s.input s.arg0.toNat = some p) : s.withPath k = .next (k p) := by
  unfold State.withPath
  rw [if_neg (by omega), withInput_some _ _ _ _ hp]

/-- A path command whose path is longer than IBUF. -/
theorem withPath_tooLong (s : State) (k : Bytes → State) (h : s.cfg.bufBytes < s.arg0.toNat) :
    s.withPath k = .next (s.complete .badArgument) := by
  unfold State.withPath
  rw [if_pos (by omega)]

/-! ### The cipher -/

@[simp] theorem decryptRun_length (ws : List Word) : ∀ c : Cipher, (decryptRun c ws).2.length = ws.length := by
  induction ws with
  | nil => intro c; rfl
  | cons w ws ih => intro c; simp [decryptRun, ih]

@[simp] theorem encryptRun_length (ws : List Word) : ∀ c : Cipher, (encryptRun c ws).2.length = ws.length := by
  induction ws with
  | nil => intro c; rfl
  | cons w ws ih => intro c; simp [encryptRun, ih]

@[simp] theorem bytesOfWord_length (w : Word) : (bytesOfWord w).length = 4 := rfl

@[simp] theorem unwords_length (ws : List Word) : (unwords ws).length = 4 * ws.length := by
  induction ws with
  | nil => rfl
  | cons w ws ih => simp [unwords, ih]; omega

@[simp] theorem wordsOf_length : ∀ bs : Bytes, (wordsOf bs).length = bs.length / 4
  | [] => rfl
  | [_] => by simp [wordsOf]
  | [_, _] => by simp [wordsOf]
  | [_, _, _] => by simp [wordsOf]
  | _ :: _ :: _ :: _ :: rest => by
    simp only [wordsOf, List.length_cons, wordsOf_length rest]; omega

/-! ### The sector decoder -/

theorem stage_error (c : Codec) (d : Bytes) (e : Nat) (x : Code) (h : stage c d e = .error x) : x = .decodeError := by
  unfold stage at h
  split at h
  · cases h; rfl
  · split at h <;> cases h; rfl

theorem runStages_error (cs : List Codec) : ∀ (d : Bytes) (e : Nat) (x : Code),
    runStages cs d e = .error x → x = .decodeError := by
  induction cs with
  | nil => intro d e x h; cases h
  | cons c cs ih =>
    intro d e x h
    rw [runStages] at h
    split at h
    · rename_i x' hx
      cases h; exact stage_error c d e _ hx
    · exact ih _ _ _ h

theorem stages_error (o : CodecOrder) (cb : Byte) (x : Code) (h : stages o cb = .error x) : x = .unsupportedCodec := by
  unfold stages at h
  split at h
  · cases h
  · split at h <;> cases h; rfl

/-- The sector decoder's only errors (43_decompress.md R200). -/
theorem decodeSector_error (o : CodecOrder) (r : Bytes) (e : Nat) (f : Word) (x : Code)
    (h : decodeSector o r e f = .error x) : x = .decodeError ∨ x = .unsupportedCodec := by
  unfold decodeSector at h
  split at h
  · cases h
  · split at h
    · rename_i x' hx
      cases h
      unfold flagPath codecBytePath at hx
      split at hx
      · split at hx
        · cases hx; exact .inl rfl
        · split at hx
          · rename_i hs; cases hx; exact .inr (stages_error _ _ _ hs)
          · exact .inl (runStages_error _ _ _ _ hx)
      · split at hx
        · exact .inl (stage_error _ _ _ _ hx)
        · cases hx
    · unfold finalCheck at h
      split at h <;> cases h; exact .inl rfl

/-! ### The sector reader -/

theorem srcRead_error (src : Bytes) (fails : List (Nat × Nat)) (a n : Nat) (x : Code)
    (h : srcRead src fails a n = .error x) : x = .ioError := by
  unfold srcRead at h
  split at h
  · cases h
  · split at h
    · cases h; rfl
    · split at h <;> cases h; rfl

/-- A byte-source read that succeeds gives the bytes of the range (20_memory.md R64). -/
theorem srcRead_ok (src : Bytes) (fails : List (Nat × Nat)) (a n : Nat) (d : Bytes)
    (h : srcRead src fails a n = .ok d) : d = (src.drop a).take n ∧ d.length = n := by
  unfold srcRead at h
  split at h
  · cases h; simp_all
  · split at h
    · cases h
    · split at h
      · cases h
      · cases h; simp; omega

/-- The codes a read of a file can raise (44_sector_reader.md R251). -/
def readCodes : List Code := [.ioError, .decodeError, .unsupportedCodec]

theorem fetch_error (j : ReadJob) (key : Word) (a n : Nat) (u : ReadUnits) (x : Code)
    (h : (j.fetch key a n u).2 = .error x) : x = .ioError := by
  unfold ReadJob.fetch at h
  split at h
  · rename_i hs; cases h; exact srcRead_error _ _ _ _ _ hs
  · cases h

theorem sector_error (j : ReadJob) (key : Word) (a n e : Nat) (u : ReadUnits) (x : Code)
    (h : (j.sector key a n e u).2 = .error x) : x ∈ readCodes := by
  unfold ReadJob.sector at h
  split at h
  · rename_i u' y hy
    cases h
    have := fetch_error j key a n u x (by rw [hy])
    simp [readCodes, this]
  · rcases decodeSector_error _ _ _ _ _ h with rfl | rfl <;> simp [readCodes]

theorem offsets_error (j : ReadJob) (u : ReadUnits) (x : Code)
    (h : (j.offsets u).2 = .error x) : x ∈ readCodes := by
  unfold ReadJob.offsets at h
  split at h
  · split at h
    · rename_i u' y hy
      cases h
      have := fetch_error j _ _ _ u x (by rw [hy])
      simp [readCodes, this]
    · dsimp only at h
      split at h <;> cases h; simp [readCodes]
  · cases h

theorem sectors_error (j : ReadJob) (off : List Nat) (is : List Nat) : ∀ (u : ReadUnits) (x : Code),
    (j.sectors off is u).2 = .error x → x ∈ readCodes := by
  induction is with
  | nil => intro u x h; cases h
  | cons i is ih =>
    intro u x h
    rw [ReadJob.sectors] at h
    split at h
    · rename_i u' y hy
      cases h
      exact sector_error j _ _ _ _ _ _ (by rw [hy])
    · split at h
      · rename_i u'' y hy
        cases h
        exact ih _ _ (by rw [hy])
      · cases h

theorem contents_error (j : ReadJob) (u : ReadUnits) (x : Code)
    (h : (j.contents u).2 = .error x) : x ∈ readCodes := by
  unfold ReadJob.contents at h
  split at h
  · cases h
  · split at h
    · exact sector_error j _ _ _ _ _ _ h
    · unfold ReadJob.sectored at h
      split at h
      · rename_i u' y hy
        cases h
        exact offsets_error j u _ (by rw [hy])
      · exact sectors_error j _ _ _ _ h

/-- The operand checks of RDFILE raise these codes only; when none fails the file fits in OBUF. -/
theorem operandError_cases (j : ReadJob) :
    (∃ x ∈ [Code.badArgument, .outputOverflow, .absent, .deleted], j.operandError = some x) ∨
    (j.operandError = none ∧ j.exp ≤ 22 ∧ j.usize ≤ j.cfg.bufBytes ∧ flagExists j.flags = true
      ∧ flagDeleteMarker j.flags = false) := by
  unfold ReadJob.operandError
  split
  · exact .inl ⟨_, by simp, rfl⟩
  · split
    · exact .inl ⟨_, by simp, rfl⟩
    · split
      · exact .inl ⟨_, by simp, rfl⟩
      · split
        · exact .inl ⟨_, by simp, rfl⟩
        · refine .inr ⟨rfl, by omega, by omega, ?_, ?_⟩ <;> simp_all

/-! ### The ways a command ends -/

/-- Every way a command that completes can end (10_state.md R25, R33, R35; 60_exceptions.md R281, R286); completion clears the units. -/
inductive Ends (i : Instr) (s : State) : State → Prop
  /-- With an error: STATUS, and all of OBUF unspecified if the command writes it. -/
  | error (code : Code) (h : code ≠ .ok) (hi : code ∈ endCodes i) :
      Ends i s (({ s with obuf := if writesObuf i then [] else s.obuf }).complete code)
  /-- With OK and results in the result registers only. -/
  | results (r0 r1 r2 : Word) (hi : writesObuf i = false) (h12 : i ≠ .hash3 → r1 = s.res1 ∧ r2 = s.res2) :
      Ends i s (({ s with res0 := r0, res1 := r1, res2 := r2 }).complete .ok)
  /-- With OK and a result in OBUF. -/
  | output (len : Word) (out : Bytes) (hi : writesObuf i = true) (hb : out.length ≤ s.cfg.bufBytes) :
      Ends i s (s.completeOutput len out)

theorem ends_errorQuiet {i : Instr} {s : State} (code : Code) (h : code ≠ .ok) (hi : code ∈ endCodes i)
    (hw : writesObuf i = false) : Ends i s (s.complete code) := by
  have := Ends.error (s := s) code h hi
  simpa [hw] using this

theorem ends_errorOutput {i : Instr} {s : State} (code : Code) (h : code ≠ .ok) (hi : code ∈ endCodes i)
    (hw : writesObuf i = true) : Ends i s (s.completeError code) := by
  have := Ends.error (s := s) code h hi
  simpa [hw, State.completeError] using this

theorem withPath_ends {i : Instr} {s t : State} {k : Bytes → State} (h : s.withPath k = .next t)
    (hi : Code.badArgument ∈ endCodes i) (hw : writesObuf i = false) (hk : ∀ p, Ends i s (k p)) : Ends i s t := by
  rcases withPath_cases s k with ⟨_, he⟩ | ⟨_, p, _, he⟩ | ⟨_, _, he⟩ <;> rw [he] at h <;> cases h
  · exact ends_errorQuiet _ (by decide) hi hw
  · exact hk p

/-- HASH, the units left out. -/
theorem hashCommand_eq (kind : HashKind) (s : State) :
    hashCommand kind s = s.withPath fun p => ({ s with res0 := pathHash kind p }).complete .ok := rfl

/-- HASH3, the units left out. -/
theorem execHash3_eq (s : State) :
    execHash3 s = s.withPath fun p =>
      ({ s with res0 := pathHash .tableOffset p, res1 := pathHash .nameA p, res2 := pathHash .nameB p }).complete .ok := rfl

/-- FKEY, the units left out. -/
theorem execFkey_eq (s : State) :
    execFkey s = s.withPath fun p =>
      ({ s with res0 := effectiveKey (pathHash .fileKey (baseName p)) s.arg1 s.arg3 s.arg4 }).complete .ok := rfl

theorem hashCommand_ends {i : Instr} {s t : State} {kind : HashKind} (h : hashCommand kind s = .next t)
    (hi : Code.badArgument ∈ endCodes i) (hw : writesObuf i = false) : Ends i s t := by
  rw [hashCommand_eq] at h
  exact withPath_ends h hi hw fun p => .results (pathHash kind p) s.res1 s.res2 hw fun _ => ⟨rfl, rfl⟩

theorem execHash3_ends {s t : State} (h : execHash3 s = .next t) : Ends .hash3 s t := by
  rw [execHash3_eq] at h
  exact withPath_ends h (by decide) rfl fun p =>
    .results (pathHash .tableOffset p) (pathHash .nameA p) (pathHash .nameB p) rfl fun hne => absurd rfl hne

theorem execFkey_ends {s t : State} (h : execFkey s = .next t) : Ends .fkey s t := by
  rw [execFkey_eq] at h
  exact withPath_ends h (by decide) rfl fun p =>
    .results (effectiveKey (pathHash .fileKey (baseName p)) s.arg1 s.arg3 s.arg4) s.res1 s.res2 rfl fun _ => ⟨rfl, rfl⟩

theorem cipherCommand_cases (run : Cipher → List Word → Cipher × List Word) (s : State) :
    (s.cfg.bufBytes < 4 * s.arg0.toNat ∧ cipherCommand run s = .next (s.completeError .badArgument)) ∨
    (4 * s.arg0.toNat ≤ s.cfg.bufBytes ∧ ∃ bs, s.input (4 * s.arg0.toNat) = some bs ∧
      cipherCommand run s =
        .next (s.completeOutput (4 * s.arg0) (unwords (run (cipherStart s.arg5) (wordsOf bs)).2))) ∨
    (4 * s.arg0.toNat ≤ s.cfg.bufBytes ∧ s.input (4 * s.arg0.toNat) = none ∧
      cipherCommand run s = .fault .unwrittenInput) := by
  unfold cipherCommand
  split
  · exact .inl ⟨by omega, rfl⟩
  · rcases withInput_cases s (4 * s.arg0.toNat) (fun bs =>
      .next (s.completeOutput (4 * s.arg0) (unwords (run (cipherStart s.arg5) (wordsOf bs)).2))) with ⟨bs, hb, he⟩ | ⟨hn, he⟩
    · exact .inr (.inl ⟨by omega, bs, hb, he⟩)
    · exact .inr (.inr ⟨by omega, hn, he⟩)

theorem cipherCommand_ok (run : Cipher → List Word → Cipher × List Word) (s : State) (bs : Bytes)
    (h : 4 * s.arg0.toNat ≤ s.cfg.bufBytes) (hb : s.input (4 * s.arg0.toNat) = some bs) :
    cipherCommand run s =
      .next (s.completeOutput (4 * s.arg0) (unwords (run (cipherStart s.arg5) (wordsOf bs)).2)) := by
  unfold cipherCommand
  rw [if_neg (by omega), withInput_some _ _ _ _ hb]
  rfl

theorem execDecomp_cases (s : State) :
    (s.cfg.bufBytes < s.arg0.toNat ∧ execDecomp s = .next (s.completeError .badArgument)) ∨
    (s.arg0.toNat ≤ s.cfg.bufBytes ∧ s.cfg.bufBytes < s.arg3.toNat ∧
      execDecomp s = .next (s.completeError .outputOverflow)) ∨
    (s.arg0.toNat ≤ s.cfg.bufBytes ∧ s.arg3.toNat ≤ s.cfg.bufBytes ∧ s.input s.arg0.toNat = none ∧
      execDecomp s = .fault .unwrittenInput) ∨
    (s.arg0.toNat ≤ s.cfg.bufBytes ∧ s.arg3.toNat ≤ s.cfg.bufBytes ∧ ∃ bs, s.input s.arg0.toNat = some bs ∧
      ((∃ x, decodeSector s.cfg.codecOrder bs s.arg3.toNat s.arg4 = .error x ∧
          execDecomp s = .next (s.completeError x)) ∨
       (∃ out, decodeSector s.cfg.codecOrder bs s.arg3.toNat s.arg4 = .ok out ∧
          execDecomp s = .next (s.completeOutput s.arg3 out)))) := by
  unfold execDecomp
  split
  · exact .inl ⟨by omega, rfl⟩
  · split
    · exact .inr (.inl ⟨by omega, by omega, rfl⟩)
    · rcases hi : s.input s.arg0.toNat with _ | bs
      · exact .inr (.inr (.inl ⟨by omega, by omega, rfl, withInput_none _ _ _ hi⟩))
      · refine .inr (.inr (.inr ⟨by omega, by omega, bs, rfl, ?_⟩))
        rw [withInput_some _ _ _ _ hi]
        cases hd : decodeSector s.cfg.codecOrder bs s.arg3.toNat s.arg4 with
        | error x => exact .inl ⟨x, rfl, rfl⟩
        | ok out => exact .inr ⟨out, rfl, rfl⟩

/-- A sector that decodes has exactly the expected length (43_decompress.md R207). -/
theorem decodeSector_length (o : CodecOrder) (r : Bytes) (e : Nat) (f : Word) (d : Bytes)
    (h : decodeSector o r e f = .ok d) : d.length = e := by
  unfold decodeSector at h
  split at h
  · cases h; assumption
  · split at h
    · cases h
    · unfold finalCheck at h
      split at h
      · cases h
      · cases h; simp_all

theorem execRdfile_cases (s : State) :
    (∃ x ∈ [Code.badArgument, .outputOverflow, .absent, .deleted], s.job.operandError = some x ∧
      execRdfile s = .next (s.completeError x)) ∨
    (s.job.operandError = none ∧
      ((∃ x, (s.job.contents .start).2 = .error x ∧ x ∈ readCodes ∧ execRdfile s = .next (s.completeError x)) ∨
       (∃ out, (s.job.contents .start).2 = .ok out ∧ out.length ≠ s.job.usize ∧
          execRdfile s = .next (s.completeError .decodeError)) ∨
       (∃ out, (s.job.contents .start).2 = .ok out ∧ out.length = s.job.usize ∧
          execRdfile s = .next (s.completeOutput s.arg3 out)))) := by
  unfold execRdfile
  rcases operandError_cases s.job with ⟨x, hx, he⟩ | ⟨he, -⟩
  · rw [he]; exact .inl ⟨x, hx, rfl, rfl⟩
  · rw [he]
    refine .inr ⟨rfl, ?_⟩
    rcases hc : s.job.contents .start with ⟨u, x | out⟩
    · exact .inl ⟨x, rfl, contents_error _ .start _ (by rw [hc]), rfl⟩
    · by_cases hl : out.length = s.job.usize
      · exact .inr (.inr ⟨out, rfl, hl, by simp [hl]⟩)
      · exact .inr (.inl ⟨out, rfl, hl, by simp [hl]⟩)

theorem cipherCommand_ends {i : Instr} {s t : State} {run : Cipher → List Word → Cipher × List Word}
    (h : cipherCommand run s = .next t) (hi : Code.badArgument ∈ endCodes i) (hw : writesObuf i = true)
    (hl : ∀ c ws, (run c ws).2.length = ws.length) : Ends i s t := by
  rcases cipherCommand_cases run s with ⟨_, he⟩ | ⟨hn, bs, hb, he⟩ | ⟨_, _, he⟩ <;> rw [he] at h <;> cases h
  · exact ends_errorOutput _ (by decide) hi hw
  · refine Ends.output _ _ hw ?_
    simp only [unwords_length, hl, wordsOf_length, input_length _ _ _ hb]
    omega

theorem readCodes_sub (x : Code) (h : x ∈ readCodes) : x ≠ .ok ∧ x ∈ endCodes .rdfile := by
  simp only [readCodes, List.mem_cons, List.not_mem_nil, or_false] at h
  rcases h with rfl | rfl | rfl <;> decide

theorem execRdfile_ends {s t : State} (h : execRdfile s = .next t) : Ends .rdfile s t := by
  rcases execRdfile_cases s with ⟨x, hx, -, he⟩ | ⟨hop, ⟨x, -, hx, he⟩ | ⟨out, -, -, he⟩ | ⟨out, -, hl, he⟩⟩ <;>
    rw [he] at h <;> cases h
  · have hx' : x ≠ .ok ∧ x ∈ endCodes .rdfile := by
      simp only [List.mem_cons, List.not_mem_nil, or_false] at hx
      rcases hx with rfl | rfl | rfl | rfl <;> decide
    exact ends_errorOutput x hx'.1 hx'.2 rfl
  · exact ends_errorOutput x (readCodes_sub x hx).1 (readCodes_sub x hx).2 rfl
  · exact ends_errorOutput _ (by decide) (by decide) rfl
  · refine Ends.output _ _ rfl ?_
    rcases operandError_cases s.job with ⟨x, -, hx⟩ | ⟨-, -, hu, -⟩
    · rw [hop] at hx; cases hx
    · rw [hl]; exact hu

theorem execDecomp_ends {s t : State} (h : execDecomp s = .next t) : Ends .decomp s t := by
  rcases execDecomp_cases s with ⟨-, he⟩ | ⟨-, -, he⟩ | ⟨-, -, -, he⟩ | ⟨-, hE, bs, -, ⟨x, hx, he⟩ | ⟨out, ho, he⟩⟩ <;>
    rw [he] at h <;> cases h
  · exact ends_errorOutput _ (by decide) (by decide) rfl
  · exact ends_errorOutput _ (by decide) (by decide) rfl
  · rcases decodeSector_error _ _ _ _ _ hx with rfl | rfl <;>
      exact ends_errorOutput _ (by decide) (by decide) rfl
  · refine Ends.output _ _ rfl ?_
    rw [decodeSector_length _ _ _ _ _ ho]; exact hE

/-- The inversion of `exec`: a command that completes ends in one of the ways of `Ends`. -/
theorem exec_ends (i : Instr) (s t : State) (h : exec i s = .next t) : Ends i s t := by
  cases i with
  | ctrd =>
    simp only [exec, execCtrd] at h
    split at h <;> cases h
    · exact ends_errorQuiet _ (by decide) (by decide) rfl
    · exact .results _ _ _ rfl fun _ => ⟨rfl, rfl⟩
  | hashOffset => exact hashCommand_ends h (by decide) rfl
  | hashNameA => exact hashCommand_ends h (by decide) rfl
  | hashNameB => exact hashCommand_ends h (by decide) rfl
  | hashFileKey => exact hashCommand_ends h (by decide) rfl
  | hash3 => exact execHash3_ends h
  | fkey => exact execFkey_ends h
  | decrypt => exact cipherCommand_ends h (by decide) rfl fun _ _ => decryptRun_length _ _
  | encrypt => exact cipherCommand_ends h (by decide) rfl fun _ _ => encryptRun_length _ _
  | decomp => exact execDecomp_ends h
  | rdfile => exact execRdfile_ends h

end Sys2Proof.Machine
end

