-- ==== Sys2Proof/Laws/CtRom.lean ====
section
/-! SUPPORT. The generating procedure of the CT ROM in pieces: which slots it writes, and how its outer loop splits, so that its
writes can be computed a few base indices at a time. -/

namespace Sys2Proof.Machine

/-- The outer loop over `n + m` base indices is the one over `n`, then the one over `m` from where it stopped. -/
theorem ctBases_add (n m : Nat) : ∀ seed base, ctBases seed base (n + m) =
    ((ctBases (ctBases seed base n).1 (base + n) m).1,
      (ctBases seed base n).2 ++ (ctBases (ctBases seed base n).1 (base + n) m).2) := by
  induction n with
  | zero => intro s b; simp [ctBases]
  | succ n ih =>
    intro s b
    rw [show n + 1 + m = (n + m) + 1 by omega, ctBases, ih]
    simp [ctBases, Nat.add_assoc, Nat.add_comm 1 n]

/-- The slots of the inner loop (40_crypto_table.md R130). -/
theorem ctPasses_slots (n : Nat) : ∀ seed slot,
    (ctPasses seed slot n).2.map Prod.fst = (List.range n).map fun k => slot + 256 * k := by
  induction n with
  | zero => intro s b; rfl
  | succ n ih =>
    intro s b
    rw [ctPasses, List.range_succ_eq_map]
    simp [ih]
    intro a _
    omega

/-- The slots of the outer loop (40_crypto_table.md R130). -/
theorem ctBases_slots (n : Nat) : ∀ seed base,
    (ctBases seed base n).2.map Prod.fst =
      (List.range n).flatMap fun b => (List.range 5).map fun k => base + b + 256 * k := by
  induction n with
  | zero => intro s b; rfl
  | succ n ih =>
    intro s b
    have : List.range (n + 1) = 0 :: (List.range n).map Nat.succ := List.range_succ_eq_map
    rw [ctBases, this]
    simp only [List.map_append, ctPasses_slots, ih, List.flatMap_cons, List.flatMap_map, Nat.add_zero, Nat.succ_eq_add_one]
    simp only [Nat.add_assoc, Nat.add_comm 1]

end Sys2Proof.Machine
end

