-- ==== Sys2Proof/Laws/PerInstr.lean ====
section
/-! SUPPORT. Per instruction: its fields are those of a legal command word, and its encoding decodes to it. -/

namespace Sys2Proof.Laws.RoundTrip

/-- An instruction's fields are legal (30_encoding.md R106), and its word and its bytes decode to it (R91, R111). -/
def Statement (i : Instr) : Prop :=
  (instrFields i).wellFormed = true ∧ decodeWord (encode i) = .ok i ∧ decodeBytes (encodeBytes i) = .ok (i, [])

theorem ctrd : Statement .ctrd := ⟨by decide, by decide, by decide⟩
theorem hashOffset : Statement .hashOffset := ⟨by decide, by decide, by decide⟩
theorem hashNameA : Statement .hashNameA := ⟨by decide, by decide, by decide⟩
theorem hashNameB : Statement .hashNameB := ⟨by decide, by decide, by decide⟩
theorem hashFileKey : Statement .hashFileKey := ⟨by decide, by decide, by decide⟩
theorem hash3 : Statement .hash3 := ⟨by decide, by decide, by decide⟩
theorem fkey : Statement .fkey := ⟨by decide, by decide, by decide⟩
theorem decrypt : Statement .decrypt := ⟨by decide, by decide, by decide⟩
theorem encrypt : Statement .encrypt := ⟨by decide, by decide, by decide⟩
theorem decomp : Statement .decomp := ⟨by decide, by decide, by decide⟩
theorem rdfile : Statement .rdfile := ⟨by decide, by decide, by decide⟩

end Sys2Proof.Laws.RoundTrip
end

