-- ==== Sys2Proof/Laws/SectorReader.lean ====
section
/-! SUPPORT. What the sector reader reads, without the internal units: each of its operations gives this value whatever the units hold. -/

namespace Sys2Proof.Machine

/-- The stored bytes as the decoder gets them. -/
def readStored (j : ReadJob) (key : Word) (a n : Nat) : Except Code Bytes :=
  match srcRead j.src j.fails a n with
  | .error x => .error x
  | .ok stored => .ok (if flagEncrypted j.flags then decryptBytes stored key else stored)

/-- One sector. -/
def readSector (j : ReadJob) (key : Word) (a n e : Nat) : Except Code Bytes :=
  match readStored j key a n with
  | .error x => .error x
  | .ok stored => decodeSector j.cfg.codecOrder stored e j.flags

/-- The offsets of the sectors. -/
def readOffsets (j : ReadJob) : Except Code (List Nat) :=
  if j.hasOffsetTable then
    match readStored j (j.key - 1) j.pos (4 * (j.sectorCount + 1)) with
    | .error x => .error x
    | .ok t =>
      if checkOffsets ((wordsOf t).map BitVec.toNat) j.sectorCount j.csize then .ok ((wordsOf t).map BitVec.toNat)
      else .error .decodeError
  else .ok ((List.range (j.sectorCount + 1)).map fun i => min (i * j.sectorSize) j.usize)

/-- Sector `i` of a sectored file. -/
def readNth (j : ReadJob) (off : List Nat) (i : Nat) : Except Code Bytes :=
  readSector j (j.key + BitVec.ofNat 32 i) (j.pos + off.getD i 0) (off.getD (i + 1) 0 - off.getD i 0) (j.expected i)

/-- The sectors of these indices, one after the other. -/
def readSectors (j : ReadJob) (off : List Nat) : List Nat → Except Code Bytes
  | [] => .ok []
  | i :: is =>
    match readNth j off i with
    | .error x => .error x
    | .ok d =>
      match readSectors j off is with
      | .error x => .error x
      | .ok ds => .ok (d ++ ds)

/-- The bytes of the file. -/
def readContents (j : ReadJob) : Except Code Bytes :=
  if j.usize = 0 then .ok []
  else if flagSingleUnit j.flags then readSector j j.key j.pos j.csize j.usize
  else
    match readOffsets j with
    | .error x => .error x
    | .ok off => readSectors j off (List.range j.sectorCount)

theorem take_scratch (j : ReadJob) (key : Word) (stored : Bytes) (u : ReadUnits) :
    (j.take key stored u).reader.scratch = if flagEncrypted j.flags then decryptBytes stored key else stored := by
  unfold ReadJob.take
  split <;> rfl

theorem fetch_snd (j : ReadJob) (key : Word) (a n : Nat) (u : ReadUnits) :
    (j.fetch key a n u).2 = readStored j key a n := by
  unfold ReadJob.fetch readStored
  cases srcRead j.src j.fails a n <;> simp [take_scratch]

theorem sector_snd (j : ReadJob) (key : Word) (a n e : Nat) (u : ReadUnits) :
    (j.sector key a n e u).2 = readSector j key a n e := by
  unfold readSector
  rw [← fetch_snd j key a n u, ReadJob.sector]
  rcases j.fetch key a n u with ⟨u', x | d⟩ <;> rfl

theorem offsets_snd (j : ReadJob) (u : ReadUnits) : (j.offsets u).2 = readOffsets j := by
  unfold readOffsets ReadJob.offsets
  split
  · rw [← fetch_snd j (j.key - 1) j.pos (4 * (j.sectorCount + 1)) u]
    rcases j.fetch (j.key - 1) j.pos (4 * (j.sectorCount + 1)) u with ⟨u', x | d⟩
    · rfl
    · dsimp only
      split <;> rfl
  · rfl

theorem sectors_snd (j : ReadJob) (off : List Nat) (is : List Nat) : ∀ u : ReadUnits,
    (j.sectors off is u).2 = readSectors j off is := by
  induction is with
  | nil => intro u; rfl
  | cons i is ih =>
    intro u
    rw [ReadJob.sectors, readSectors, readNth, ← sector_snd _ _ _ _ _ { u with reader := { u.reader with sector := i } }]
    split
    · rename_i u' x hy; rw [hy]
    · rename_i u' d hy
      rw [hy, ← ih u']
      dsimp only
      split <;> rename_i hz <;> rw [hz]

theorem contents_snd (j : ReadJob) (u : ReadUnits) : (j.contents u).2 = readContents j := by
  unfold readContents ReadJob.contents
  split
  · rfl
  · split
    · exact sector_snd _ _ _ _ _ _
    · rw [← offsets_snd j u, ReadJob.sectored]
      rcases j.offsets u with ⟨u', x | off⟩
      · rfl
      · exact sectors_snd _ _ _ _

/-- RDFILE's operand checks over the operand registers (44_sector_reader.md R240). -/
theorem operandError_eq (s : State) : s.job.operandError =
    if s.arg0.toNat > 22 then some .badArgument
    else if s.arg3.toNat > s.cfg.bufBytes then some .outputOverflow
    else if hasBits s.arg4 0x80000000 = false then some .absent
    else if hasBits s.arg4 0x02000000 then some .deleted
    else none := rfl

/-- RDFILE once its operands pass their checks: what the file's bytes are decides. -/
theorem execRdfile_eq (s : State) (h : s.job.operandError = none) : execRdfile s =
    match readContents s.job with
    | .error x => .next (s.completeError x)
    | .ok out =>
      if out.length ≠ s.job.usize then .next (s.completeError .decodeError) else .next (s.completeOutput s.arg3 out) := by
  rw [← contents_snd s.job .start]
  unfold execRdfile
  rw [h]
  rcases s.job.contents .start with ⟨u, x | out⟩ <;> rfl

end Sys2Proof.Machine
end

