-- ==== Sys2Proof/Laws/Step.lean ====
section
/-! SUPPORT. What a host access, an event and a step can do, said once. -/

namespace Sys2Proof.Machine

/-- Everything a host write can leave (10_state.md R23 to R31, 20_memory.md R63). -/
inductive Writes (s : State) : State → Prop
  | busError : Writes s { s with reply := .busError }
  | ignored : Writes s { s with reply := .done }
  | dropped (h : s.status.busy = true) : Writes s { s.dropWrite with reply := .done }
  | accepted (v : Word) (h : s.status.busy = false) : Writes s { s.accept v with reply := .done }
  | status (v : Word) : Writes s { s with status := s.status.written v, reply := .done }
  | ctrl (v : Word) : Writes s { s with ctrl := s.ctrl.written v, reply := .done }
  | args (a0 a1 a2 a3 a4 a5 : Word) (h : s.status.busy = false) :
      Writes s { s with arg0 := a0, arg1 := a1, arg2 := a2, arg3 := a3, arg4 := a4, arg5 := a5, reply := .done }
  | ibuf (i : Nat) (bs : Bytes) (h : s.status.busy = false) (hi : i + bs.length ≤ s.cfg.bufBytes) :
      Writes s { s with ibuf := s.ibuf.writeBytes i bs, reply := .done }

theorem unlessBusy_writes (s t : State) (h : s.status.busy = false → Writes s { t with reply := .done }) :
    Writes s { s.unlessBusy t with reply := .done } := by
  cases hb : s.status.busy with
  | true => rw [State.unlessBusy_busy s t hb]; exact .dropped hb
  | false => rw [State.unlessBusy_idle s t hb]; exact h hb

/-- What a write of a register can leave. -/
theorem writeRegister_writes (s : State) (off : Nat) (v : Word) :
    Writes s { s.writeRegister off v with reply := .done } := by
  unfold State.writeRegister
  split
  · exact unlessBusy_writes _ _ fun h => .accepted v h
  · exact .status v
  · exact .ctrl v
  · exact unlessBusy_writes _ _ fun h => .args v s.arg1 s.arg2 s.arg3 s.arg4 s.arg5 h
  · exact unlessBusy_writes _ _ fun h => .args s.arg0 v s.arg2 s.arg3 s.arg4 s.arg5 h
  · exact unlessBusy_writes _ _ fun h => .args s.arg0 s.arg1 v s.arg3 s.arg4 s.arg5 h
  · exact unlessBusy_writes _ _ fun h => .args s.arg0 s.arg1 s.arg2 v s.arg4 s.arg5 h
  · exact unlessBusy_writes _ _ fun h => .args s.arg0 s.arg1 s.arg2 s.arg3 v s.arg5 h
  · exact unlessBusy_writes _ _ fun h => .args s.arg0 s.arg1 s.arg2 s.arg3 s.arg4 v h
  · exact .ignored

/-- The place of an access in IBUF lies inside IBUF. -/
theorem placeOf_ibuf (cfg : Params) (off : Nat) (w : Width) (i : Nat) (h : placeOf cfg off w = some (.ibuf i)) :
    i + w.bytes ≤ cfg.bufBytes := by
  unfold placeOf at h
  repeat' split at h
  all_goals simp only [Option.some.injEq, Place.ibuf.injEq, reduceCtorEq] at h
  omega

@[simp] theorem leBytes_length (v : Word) (n : Nat) : (leBytes v n).length = n := by simp [leBytes]

/-- What a host write can leave. -/
theorem busWrite_writes (off : Nat) (w : Width) (v : Word) (s : State) : Writes s (s.busWrite off w v) := by
  unfold State.busWrite
  split
  · exact writeRegister_writes s _ v
  · rename_i i hp
    exact unlessBusy_writes _ _ fun h => .ibuf i _ h (by simpa using placeOf_ibuf _ _ _ _ hp)
  · exact .busError
  · exact .busError
  · exact .busError

/-- A host read changes only the model's own fields (20_memory.md R69). -/
theorem busRead_frame (off : Nat) (w : Width) (s : State) :
    ∃ r l d, s.busRead off w = { s with reply := r, lastRead := l, draws := d } := by
  unfold State.busRead
  split
  · exact ⟨_, _, _, rfl⟩
  · exact ⟨_, _, _, rfl⟩

/-- What the core's completion can leave: the end of the command CMD decodes to, or ILLEGAL_COMMAND. -/
theorem coreStep_cases (s t : State) (h : coreStep s = .next t) :
    (∃ i, decodeWord s.cmd = .ok i ∧ exec i s = .next t ∧ Ends i s t) ∨
    (∃ e, decodeWord s.cmd = .error e ∧ t = s.complete .illegalCommand) := by
  unfold coreStep at h
  split at h
  · rename_i i hi
    exact .inl ⟨i, hi, h, exec_ends i s t h⟩
  · rename_i e he
    cases h; exact .inr ⟨e, he, rfl⟩

/-! ### Where an access goes -/

theorem placeOf_register (cfg : Params) (off : Nat) (h : off < 0x100) (h4 : off % 4 = 0) :
    placeOf cfg off .word = some (.register off) := by
  simp [placeOf, Width.bytes, h, h4]

theorem placeOf_ctEntry (cfg : Params) (i : Nat) (h : i < 1280) :
    placeOf cfg (0x1000 + 4 * i) .word = some (.ctEntry i) := by
  unfold placeOf
  rw [if_neg (by simp only [Width.bytes]; omega), if_neg (by omega), if_pos (by omega), if_pos rfl,
    show (0x1000 + 4 * i - 0x1000) / 4 = i by omega]

theorem placeOf_inIbuf (cfg : Params) (i : Nat) (w : Width) (h4 : (0x10000 + i) % w.bytes = 0)
    (h : i + w.bytes ≤ cfg.bufBytes) : placeOf cfg (0x10000 + i) w = some (.ibuf i) := by
  unfold placeOf
  rw [if_neg (by omega), if_neg (by omega), if_neg (by omega), if_pos (by omega),
    show 0x10000 + i - 0x10000 = i by omega]

theorem placeOf_inObuf (cfg : Params) (i : Nat) (w : Width) (h4 : (0x20000 + i) % w.bytes = 0)
    (h : i + w.bytes ≤ cfg.bufBytes) (hc : cfg.bufBytes ≤ 65536) : placeOf cfg (0x20000 + i) w = some (.obuf i) := by
  have : 0 < w.bytes := by cases w <;> decide
  unfold placeOf
  rw [if_neg (by omega), if_neg (by omega), if_neg (by omega), if_neg (by omega), if_pos (by omega),
    show 0x20000 + i - 0x20000 = i by omega]

/-! ### What a read of a buffer gives -/

@[simp] theorem readDrawn_length (m : Memory) (n : Nat) : ∀ i k, (readDrawn m i k n).length = n := by
  induction n with
  | zero => intro i k; rfl
  | succ n ih => intro i k; simp [readDrawn, ih]

/-- Each byte of a read of a buffer is the specified one, or a draw of its own. -/
theorem readDrawn_get (m : Memory) (n : Nat) : ∀ i d k, k < n →
    (readDrawn m i d n)[k]? = some ((m.read (i + k)).getD (drawByte (d + k))) := by
  induction n with
  | zero => intro i d k hk; omega
  | succ n ih =>
    intro i d k hk
    cases k with
    | zero => rfl
    | succ k =>
      rw [readDrawn, List.getElem?_cons_succ, ih _ _ _ (by omega), show i + 1 + k = i + (k + 1) by omega,
        show d + 1 + k = d + (k + 1) by omega]

/-- The value a read of a buffer returns, byte by byte. -/
theorem leValue_readDrawn (m : Memory) (i d : Nat) (w : Width) :
    (leValue (readDrawn m i d w.bytes)).toNat < 2 ^ (8 * w.bytes) ∧
    ∀ k < w.bytes, (leValue (readDrawn m i d w.bytes)).extractLsb' (8 * k) 8 =
      (m.read (i + k)).getD (drawByte (d + k)) := by
  obtain ⟨h1, h2⟩ := leValue_bytes (readDrawn m i d w.bytes) (by cases w <;> simp [Width.bytes])
  rw [readDrawn_length] at h1 h2
  exact ⟨h1, fun k hk => Option.some.inj ((h2 k hk).trans (readDrawn_get m _ i d k hk))⟩

/-! ### One step on each kind of event -/

theorem step_read (s : State) (off : Nat) (w : Width) (q : List Event) (h : s.sched = .read off w :: q) :
    step s = .next (({ s with sched := q }).busRead off w) := by
  simp only [step, turn, h, eventTurn]

theorem step_write (s : State) (off : Nat) (w : Width) (v : Word) (q : List Event) (h : s.sched = .write off w v :: q) :
    step s = .next (({ s with sched := q }).busWrite off w v) := by
  simp only [step, turn, h, eventTurn]

theorem step_reset (s : State) (q : List Event) (h : s.sched = .reset :: q) :
    step s = .next ({ s with sched := q }).resetCore := by
  simp only [step, turn, h, eventTurn]

/-- The core's turn with no event left. -/
theorem step_busy (s : State) (hb : s.status.busy = true) (h : s.sched = []) : step s = coreStep s := by
  simp only [step, turn, h, coreTurn, hb, if_true]

/-- A host read of a place, and a host write of a register. -/
theorem busRead_some (s : State) (off : Nat) (w : Width) (p : Place) (h : placeOf s.cfg off w = some p) :
    s.busRead off w = { s with reply := .value (s.valueAt p w), lastRead := s.valueAt p w, draws := s.draws + w.bytes } := by
  simp only [State.busRead, h]

theorem busWrite_register (s : State) (off : Nat) (v : Word) (h : off < 0x100) (h4 : off % 4 = 0) :
    s.busWrite off .word v = { s.writeRegister off v with reply := .done } := by
  simp only [State.busWrite, placeOf_register _ _ h h4]

theorem busWrite_ibuf (s : State) (i : Nat) (w : Width) (v : Word) (h4 : (0x10000 + i) % w.bytes = 0)
    (h : i + w.bytes ≤ s.cfg.bufBytes) :
    s.busWrite (0x10000 + i) w v =
      { s.unlessBusy { s with ibuf := s.ibuf.writeBytes i (leBytes v w.bytes) } with reply := .done } := by
  simp only [State.busWrite, placeOf_inIbuf _ _ _ h4 h]

/-- Everything a step that answers a next state can do. -/
inductive Steps (s : State) : State → Prop
  /-- The command in progress completes; the event that let it may be taken off. -/
  | core (q : List Event) (t : State) (hb : s.status.busy = true) (h : coreStep { s with sched := q } = .next t) : Steps s t
  /-- Nothing but the list of events changes. -/
  | idle (q : List Event) : Steps s { s with sched := q }
  | read (q : List Event) (off : Nat) (w : Width) : Steps s (({ s with sched := q }).busRead off w)
  | write (q : List Event) (t : State) (h : Writes { s with sched := q } t) : Steps s t
  | reset (q : List Event) (h : s.sched = .reset :: q) : Steps s ({ s with sched := q }).resetCore
  | attach (q : List Event) (src : Bytes) (fails : List (List (Nat × Nat))) (hb : s.status.busy = false)
      (hl : src.length ≤ 2 ^ 32) : Steps s { s with sched := q, src := src, srcDraws := fails }

/-- The inversion of `step`. -/
theorem step_steps (s t : State) (h : step s = .next t) : Steps s t := by
  unfold step turn at h
  split at h
  · unfold coreTurn at h
    split at h
    · exact .core s.sched t (by assumption) h
    · cases h; exact .idle s.sched
  · rename_i e rest hs
    cases e with
    | read off w => cases h; exact .read rest off w
    | write off w v => cases h; exact .write rest _ (busWrite_writes off w v _)
    | writeBack off w => cases h; exact .write rest _ (busWrite_writes off w s.lastRead _)
    | poll =>
      simp only [eventTurn, pollTurn] at h
      split at h
      · exact .core s.sched t (by assumption) h
      · cases h; exact .read rest 0x004 .word
    | tick => cases h; exact .idle rest
    | complete =>
      simp only [eventTurn, coreTurn] at h
      split at h
      · exact .core rest t (by assumption) h
      · cases h; exact .idle rest
    | reset => cases h; exact .reset rest hs
    | attach src fails =>
      simp only [eventTurn, attachTurn] at h
      split at h
      · cases h
      · split at h
        · cases h
        · cases h; exact .attach rest src fails (by simp_all) (by omega)

end Sys2Proof.Machine
end

