-- ==== Sys2Proof/Tests/Slice0.lean ====
section
/-! SUPPORT. Small tests: ill-formed words and parameters refused, command words written out bit by bit, vectors of
95_test_vectors.md (each named beside its test), and a witness for the hypotheses of each statement that has some. -/

namespace Sys2Proof.Tests

open Sys2Proof Sys2Proof.Machine Sys2Proof.Claims

/-! ### States to test on -/

/-- An idle core after reset, with these operands, IBUF bytes and byte source. -/
def idle (a0 a1 a2 a3 a4 a5 : Word) (ib src : Bytes) : State :=
  { State.reset with
    arg0 := a0, arg1 := a1, arg2 := a2, arg3 := a3, arg4 := a4, arg5 := a5, ibuf := Memory.ofBytes 0 ib, src := src }

/-- An idle core with these events to come. -/
def idleWith (q : List Event) : State := { State.reset with sched := q }

/-- A core that has just accepted this word, with these events to come. -/
def busyWith (v : Word) (q : List Event) : State := { State.reset.accept v with sched := q }

/-- The state a step answers, if it answers one. -/
def stateOf (o : Result) : Option State :=
  match o with
  | .next t => some t
  | .fault _ => none
  | .refused _ => none

/-- RES0 and the status code after a command. -/
def ended (o : Result) : Option (Word × Code) := (stateOf o).map fun t => (t.res0, t.status.err)

/-- The first `n` bytes of OBUF after a command. -/
def output (o : Result) (n : Nat) : Option Bytes := (stateOf o).bind fun t => t.obuf.readBytes 0 n

/-! ### WellFormed: an ill-formed term for each check -/

theorem test_reserved_bit_set : ({ opc := 1, kind := 0, rsvd := 1 } : CmdFields).wellFormed = false := by decide

theorem test_opcode_zero : ({ opc := 0, kind := 0, rsvd := 0 } : CmdFields).wellFormed = false := by decide

theorem test_opcode_nine : ({ opc := 9, kind := 0, rsvd := 0 } : CmdFields).wellFormed = false := by decide

theorem test_kind_outside_hash : ({ opc := 3, kind := 1, rsvd := 0 } : CmdFields).wellFormed = false := by decide

theorem test_kind_in_hash : ({ opc := 2, kind := 3, rsvd := 0 } : CmdFields).wellFormed = true := by decide

theorem test_buffers_too_small :
    ({ bufBytes := 2, codecOrder := .descending, offsetTable := .always } : Params).wellFormed = false := by decide

theorem test_buffers_too_big :
    ({ bufBytes := 131072, codecOrder := .descending, offsetTable := .always } : Params).wellFormed = false := by decide

theorem test_buffers_no_power_of_two :
    ({ bufBytes := 12, codecOrder := .descending, offsetTable := .always } : Params).wellFormed = false := by decide

theorem test_buffers_at_their_bounds :
    ({ bufBytes := 4, codecOrder := .reference, offsetTable := .always } : Params).wellFormed = true ∧
    ({ bufBytes := 65536, codecOrder := .descending, offsetTable := .compressedOnly } : Params).wellFormed = true := by
  decide

/-! ### Words written out from 30_encoding.md R90: bits 31:10, then KIND, then OPC -/

theorem test_word_ctrd : decodeWord 0b0000000000000000000000_00_00000001 = .ok .ctrd := by decide

theorem test_word_hashOffset : decodeWord 0b0000000000000000000000_00_00000010 = .ok .hashOffset := by decide

theorem test_word_hashNameA : decodeWord 0b0000000000000000000000_01_00000010 = .ok .hashNameA := by decide

theorem test_word_hashNameB : decodeWord 0b0000000000000000000000_10_00000010 = .ok .hashNameB := by decide

theorem test_word_hashFileKey : decodeWord 0b0000000000000000000000_11_00000010 = .ok .hashFileKey := by decide

theorem test_word_hash3 : decodeWord 0b0000000000000000000000_00_00000011 = .ok .hash3 := by decide

theorem test_word_fkey : decodeWord 0b0000000000000000000000_00_00000100 = .ok .fkey := by decide

theorem test_word_decrypt : decodeWord 0b0000000000000000000000_00_00000101 = .ok .decrypt := by decide

theorem test_word_encrypt : decodeWord 0b0000000000000000000000_00_00000110 = .ok .encrypt := by decide

theorem test_word_decomp : decodeWord 0b0000000000000000000000_00_00000111 = .ok .decomp := by decide

theorem test_word_rdfile : decodeWord 0b0000000000000000000000_00_00001000 = .ok .rdfile := by decide

theorem test_word_illegal_kind : decodeWord 0x00000103 = .error .kindNotZero := by decide   -- vector H11

theorem test_word_illegal_opcode : decodeWord 0x00000009 = .error .unknownOpcode := by decide

theorem test_word_illegal_reserved : decodeWord 0x00000401 = .error .reservedBits := by decide

theorem test_bytes_low_first : decodeBytes [0x02, 0x01, 0x00, 0x00, 0xFF] = .ok (.hashNameA, [0xFF]) := by decide

theorem test_bytes_truncated : decodeBytes [0x02, 0x01, 0x00] = .error .truncated := by decide

theorem test_table_word : decodeTableWord 32 0x302 = some .hashFileKey ∧ decodeTableWord 16 0x1_0302 = some .hashFileKey := by
  decide

/-! ### Commands: vectors of 95_test_vectors.md section 3 -/

/-- The path of vectors H3 and F1, "test.txt". -/
def testTxt : Bytes := [0x74, 0x65, 0x73, 0x74, 0x2E, 0x74, 0x78, 0x74]

/-- The path of vectors H10 and F2: a directory "dir" and "test.txt". -/
def dirTestTxt : Bytes := [0x64, 0x69, 0x72, 0x5C] ++ testTxt

theorem test_ctrd_last : ended (exec .ctrd (idle 1279 0 0 0 0 0 [] [])) = some (0x7303286C, .ok) := by decide   -- T13

theorem test_ctrd_beyond : ended (exec .ctrd (idle 1280 0 0 0 0 0 [] [])) = some (0, .badArgument) := by decide   -- T14

theorem test_hash_offset : ended (exec .hashOffset (idle 8 0 0 0 0 0 testTxt [])) = some (0x6B022F7B, .ok) := by
  decide +kernel   -- H3

theorem test_hash_offset_empty : ended (exec .hashOffset State.reset) = some (0x7FED7FED, .ok) := by decide   -- H12

theorem test_hash_nameA : ended (exec .hashNameA (idle 7 0 0 0 0 0 [0x61, 0x5C, 0x62, 0x2E, 0x74, 0x78, 0x74] [])) =
    some (0x79F5E4F4, .ok) := by decide +kernel   -- H7, the first spelling

theorem test_hash_nameB : ended (exec .hashNameB (idle 7 0 0 0 0 0 [0x41, 0x2F, 0x42, 0x2E, 0x54, 0x58, 0x54] [])) =
    some (0x28D09825, .ok) := by decide +kernel   -- H7, the second spelling

theorem test_hash_fileKey : ended (exec .hashFileKey (idle 12 0 0 0 0 0 dirTestTxt [])) = some (0x80BE8224, .ok) := by
  decide +kernel   -- H10

theorem test_hash3 : (stateOf (exec .hash3 (idle 8 0 0 0 0 0 testTxt []))).map (fun t => [t.res0, t.res1, t.res2]) =
    some [0x6B022F7B, 0x7D9AA20D, 0x9FEE7CA0] := by decide +kernel   -- H3

theorem test_hash3_too_long : ended (exec .hash3 (idle 4097 0 0 0 0 0 testTxt [])) = some (0, .badArgument) := by
  decide   -- H9

theorem test_fkey_adjusted : ended (exec .fkey (idle 12 0x20 0 5 0x81020000 0 dirTestTxt [])) = some (0x82C4525C, .ok) := by
  decide +kernel   -- F2

theorem test_fkey_empty_base : ended (exec .fkey (idle 2 0x10 0 0 0x00020000 0 [0x78, 0x2F] [])) = some (0x7FED7FFD, .ok) := by
  decide   -- F5

/-- The input words of K4, "hello wo". -/
def helloWo : Bytes := [0x68, 0x65, 0x6C, 0x6C, 0x6F, 0x20, 0x77, 0x6F]

theorem test_encrypt : output (exec .encrypt (idle 2 0 0 0 0 0x82C45239 helloWo [])) 8 =
    some [0xC3, 0x6C, 0x1D, 0xF9, 0xDC, 0xDE, 0xE7, 0xC9] := by decide +kernel   -- K4

theorem test_encrypt_too_many : ended (exec .encrypt (idle 1025 0 0 0 0 0 [] [])) = some (0, .badArgument) := by decide   -- K11

theorem test_decrypt : output (exec .decrypt (idle 2 0 0 0 0 0x82C45239 helloWo [])) 8 =
    some [0xC3, 0x6C, 0x1D, 0xF9, 0x61, 0x26, 0x35, 0x5C] := by decide +kernel   -- K4

theorem test_decrypt_wraps : ended (exec .decrypt (idle 0x40000000 0 0 0 0 0 [] [])) = some (0, .badArgument) := by decide   -- K12

theorem test_tail_bytes : decryptBytes [0, 0, 0, 0, 0xAA, 0xBB] 0 = [0x86, 0x95, 0x29, 0x08, 0xAA, 0xBB] := by decide   -- K13

theorem test_sparse_zero_run : sparse [0, 0, 0, 0x82, 0x7F] = some (List.replicate 130 0) := by
  decide +kernel   -- Z4c

/-- The sparse stream of vector Z5 after its codec byte. -/
def sparseZ5 : Bytes := [0x00, 0x00, 0x00, 0x08, 0x83, 0x41, 0x42, 0x43, 0x44, 0x01]

theorem test_decomp_sparse : output (exec .decomp (idle 11 0 0 8 0x200 0 (0x20 :: sparseZ5) [])) 8 =
    some [0x41, 0x42, 0x43, 0x44, 0, 0, 0, 0] := by decide   -- Z5

theorem test_decomp_unsupported : ended (exec .decomp (idle 6 0 0 4 0x200 0 [0x21, 0, 0, 0, 4, 0] [])) =
    some (0, .unsupportedCodec) := by decide   -- Z8

/-- The byte source of vectors R1 to R8. -/
def helloSource : Bytes := List.replicate 32 0 ++ [0x68, 0x65, 0x6C, 0x6C, 0x6F]

theorem test_rdfile_stored : output (exec .rdfile (idle 0 0x20 5 5 0x81000000 0 [] helloSource)) 5 =
    some [0x68, 0x65, 0x6C, 0x6C, 0x6F] := by decide   -- R1

/-- The byte source of vectors R9 to R14 and of program P4. -/
def sectoredSource : Bytes :=
  List.replicate 64 0 ++
  [0xCF, 0x2C, 0x9E, 0x98, 0x43, 0x38, 0x42, 0xFA, 0x13, 0x70, 0xA4, 0x1D] ++
  [0x64, 0xFD, 0x85, 0x30, 0xED, 0x9B, 0x45, 0x91, 0x6C, 0xB6, 0x7C, 0x2A, 0x7F, 0x73] ++
  [0xF7, 0xFC, 0xF0, 0x61, 0x57, 0x75, 0xD0, 0xB2, 0x74, 0x96, 0x33, 0xBF]

theorem test_rdfile_sectored :
    (stateOf (exec .rdfile (idle 0 0x40 38 1000 0x80030200 0x5D20316C [] sectoredSource))).map
      (fun t => (t.res0, t.obuf.read 3, t.obuf.read 4, t.obuf.read 999)) = some (1000, some 0x44, some 0, some 0x59) := by
  decide +kernel   -- R9

/-! ### The step, the bus and the interrupt -/

theorem test_withFetchWord : (stateOf (step (State.reset.withFetchWord 32 0x00000001))).map (fun t => (t.res0, t.status.done)) =
    some (0x55C636E2, true) := by decide   -- T, entry 0

theorem test_illegal_word : (stateOf (step (busyWith 0x00000101 []))).map (fun t => t.status.toWord) = some 0x00010602 := by
  decide   -- P5

theorem test_overrun : (stateOf (step (busyWith 0x00000001 [.write 0x010 .word 5]))).map (fun t => (t.arg0, t.status.overrun)) =
    some (0, true) := by decide   -- P6

theorem test_ct_window_is_read_only : (stateOf (step (idleWith [.write 0x1000 .word 0]))).map (·.reply) = some .busError := by
  decide   -- section 3.1

theorem test_ct_window_last : (stateOf (step (idleWith [.read 0x23FC .word]))).map (·.reply) = some (.value 0x7303286C) := by
  decide   -- section 3.1

theorem test_interrupt : (stateOf (exec .ctrd { State.reset with ctrl := { ie := true } })).map State.irq = some true := by
  decide   -- P1

theorem test_ack_keeps_error :
    (stateOf (step { idleWith [.write 0x004 .word 2] with
      status := { busy := false, done := true, err := .deleted, errSeen := true, overrun := false } })).map
      (fun t => t.status.toWord) = some 0x00010500 := by decide   -- P3

theorem test_reset_abandons : (stateOf (step (busyWith 0x00000008 [.reset]))).map (fun t => (t.cmd, t.status.busy)) =
    some (0, false) := by decide

/-! ### Witnesses: for each statement with hypotheses, states that meet them, at the bounds of their ranges -/

/-- An idle core whose buffers are of four bytes, with these operands and IBUF written whole. -/
def small (a0 a3 a4 : Word) : State :=
  { idle a0 0 0 a3 a4 0 [0x41, 0x5C, 0x42, 0x2E] [] with
    cfg := { bufBytes := 4, codecOrder := .descending, offsetTable := .always } }

theorem test_meets_StepRunsTheDecodedCommand :
    (busyWith 8 []).status.busy = true ∧ decodeWord (busyWith 8 []).cmd = .ok .rdfile ∧ (busyWith 8 []).sched = [] ∧
    (busyWith 1 [.complete, .tick]).status.busy = true ∧ decodeWord (busyWith 1 [.complete, .tick]).cmd = .ok .ctrd ∧
    (busyWith 1 [.complete, .tick]).sched = .complete :: [.tick] ∧ (busyWith 1 [.poll]).sched = .poll :: [] := by decide

theorem test_meets_IllegalCommandComesOnlyFromDecode :
    (illegalWord 0x00000401 ∧ illegalWord 0x80000001 ∧ illegalWord 0 ∧ illegalWord 9 ∧ illegalWord 0x101 ∧ illegalWord 0x308) ∧
    (¬ illegalWord 1 ∧ ¬ illegalWord 0x302 ∧ ¬ illegalWord 8) ∧
    (busyWith 9 []).status.busy = true ∧ (busyWith 9 []).sched = [] ∧ ∃ t, exec .ctrd State.reset = .next t := by
  refine ⟨?_, ?_, by decide, by decide, _, rfl⟩ <;> simp only [illegalWord] <;> decide

theorem test_meets_AcceptanceStartsTheCommand :
    (idleWith [.write 0x000 .word 8]).status.busy = false ∧
    (idleWith [.write 0x000 .word 8]).sched = .write 0x000 .word 8 :: [] ∧ decodeWord 8 = .ok .rdfile ∧ illegalWord 9 := by
  refine ⟨by decide, by decide, by decide, ?_⟩
  simp only [illegalWord]
  decide

theorem test_meets_BusyWritesAreDropped :
    (∀ off ∈ [0x000, 0x010, 0x024, 0x004, 0x008],
      (busyWith 8 [.write off .word 2]).status.busy = true ∧
      (busyWith 8 [.write off .word 2]).sched = .write off .word 2 :: []) ∧
    0x010 ∈ argOffsets ∧ 0x024 ∈ argOffsets ∧
    (0x10000 % Width.word.bytes = 0 ∧ 0x10000 + Width.word.bytes ≤ 0x10000 + Params.reference.bufBytes) ∧
    (0x10FFF % Width.byte.bytes = 0 ∧ 0x10000 ≤ 0x10FFF ∧ 0x10FFF + Width.byte.bytes ≤ 0x10000 + Params.reference.bufBytes) := by
  decide

theorem test_meets_ReadsBusyAndIdle :
    (∀ off ∈ [0x040, 0x048, 0x20000, 0x20FFC, 0x000, 0x024, 0x1000, 0x1000 + 4 * 1279, 0x10000],
      (busyWith 8 [.read off .word]).status.busy = true ∧ (busyWith 8 [.read off .word]).sched = .read off .word :: [] ∧
      (idleWith [.read off .word]).sched = .read off .word :: []) ∧
    0x040 ∈ resOffsets ∧ 0x048 ∈ resOffsets ∧ Params.reference.bufBytes ≤ 65536 ∧
    (0x20FFC = 0x20000 + 4092 ∧ 4092 % Width.word.bytes = 0 ∧ 4092 + Width.word.bytes ≤ Params.reference.bufBytes) ∧
    (0x10FFF = 0x10000 + 4095 ∧ 4095 % Width.byte.bytes = 0 ∧ 4095 + Width.byte.bytes ≤ Params.reference.bufBytes) := by
  decide

/-- 20_memory.md R67: byte i is bits 7:0 of the value read, byte i + 1 bits 15:8. -/
theorem test_idle_read_is_low_byte_first :
    (stateOf (step { idle 0 0 0 0 0 0 [0x11, 0x22, 0x33, 0x44] [] with sched := [.read 0x10002 .half] })).map (·.reply) =
      some (.value 0x4433) := by decide

theorem test_meets_BusErrorsExactly :
    (∀ a ∈ [(0x0FC, Width.word), (0x1000, .word), (0x23FC, .word), (0x10000, .half), (0x10FFF, .byte), (0x20FFC, .word)],
      readable Params.reference a.1 a.2) ∧
    (∀ a ∈ [(0x100, Width.word), (0x0FC, .half), (0xFFC, .word), (0x2400, .word), (0x10001, .half), (0x11000, .byte),
        (0x1FFFF, .byte), (0x21000, .word), (0x30000, .byte)], ¬ readable Params.reference a.1 a.2) ∧
    (∀ a ∈ [(0x000, Width.word), (0x0FC, .word), (0x10000, .word), (0x10FFE, .half)], writable Params.reference a.1 a.2) ∧
    (∀ a ∈ [(0x100, Width.word), (0x1000, .word), (0x11000, .byte), (0x20000, .word)], ¬ writable Params.reference a.1 a.2) ∧
    (idleWith [.read 0x0FC .word]).sched = .read 0x0FC .word :: [] ∧
    (idleWith [.write 0x20000 .word 1]).sched = .write 0x20000 .word 1 :: [] := by
  simp only [readable, writable]
  decide

theorem test_meets_CtWindowReadsTheRom :
    (idleWith [.read (0x1000 + 4 * 1279) .word]).sched = .read (0x1000 + 4 * 1279) .word :: [] := by decide

theorem test_meets_RegisterPage :
    (∀ off ∈ [0x000, 0x004, 0x008, 0x010, 0x024, 0x040, 0x048, 0x00C, 0x0FC],
      (idleWith [.write off .word 7]).sched = .write off .word 7 :: [] ∧
      (idleWith [.read off .word]).sched = .read off .word :: [] ∧ (idleWith [.read off .word]).status.busy = false) ∧
    (∀ off ∈ [0x00C, 0x028, 0x040, 0x0FC],
      off % 4 = 0 ∧ off < 0x100 ∧ off ∉ [0x000, 0x004, 0x008] ∧ off ∉ argOffsets) ∧
    0x0FC ∉ resOffsets := by decide

theorem test_meets_StatusFieldsAndClear : (busyWith 8 [.write 0x004 .word 2]).sched = .write 0x004 .word 2 :: [] := by decide

theorem test_meets_CtrlKeepsOnlyIe :
    (busyWith 8 [.write 0x008 .word 0xFFFFFFFF, .read 0x008 .word]).sched =
      .write 0x008 .word 0xFFFFFFFF :: .read 0x008 .word :: [] := by decide

theorem test_meets_IbufWritesSetTheirBytes :
    State.reset.status.busy = false ∧ 4092 % 4 = 0 ∧ 4092 + 4 ≤ State.reset.cfg.bufBytes ∧
    (∀ iw ∈ [(4092, Width.word), (4094, .half), (4095, .byte), (0, .half)],
      (idleWith [.write (0x10000 + iw.1) iw.2 0x1234]).sched = .write (0x10000 + iw.1) iw.2 0x1234 :: [] ∧
      iw.1 % iw.2.bytes = 0 ∧ iw.1 + iw.2.bytes ≤ State.reset.cfg.bufBytes) := by decide

/-- 20_memory.md R67: a 2-byte write sets byte i to bits 7:0 and byte i + 1 to bits 15:8. -/
theorem test_half_write : (stateOf (step (idleWith [.write 0x10FFE .half 0xAABB1234]))).map (·.ibuf) =
    some [(4094, 0x34), (4095, 0x12)] := by decide

theorem test_meets_InterruptFollowsCompletion :
    (∃ t, exec .rdfile State.reset = .next t) ∧
    (busyWith 9 []).status.busy = true ∧ (busyWith 9 []).sched = [] ∧ (∃ t, step (busyWith 9 []) = .next t) ∧
    (idleWith [.write 0x004 .word 2]).sched = .write 0x004 .word 2 :: [] ∧ (2 : Word).getLsbD 1 = true ∧
    (idleWith [.write 0x008 .word 2]).sched = .write 0x008 .word 2 :: [] ∧ (2 : Word).getLsbD 0 = false ∧
    (idleWith [.write 0x000 .word 2]).sched = .write 0x000 .word 2 :: [] ∧
    (idleWith [.write 0x000 .word 2]).status.busy = false :=
  ⟨⟨_, rfl⟩, by decide, by decide, ⟨_, rfl⟩, by decide, by decide, by decide, by decide, by decide, by decide⟩

theorem test_meets_ResetAbandonsTheCommand :
    (busyWith 8 [.reset, .tick]).sched = .reset :: [.tick] ∧ (busyWith 8 [.reset, .tick]).status.busy = true := by decide

theorem test_meets_OnlyResetClearsTheStickyBits :
    ∃ s t : State, step s = .next t ∧ (∀ q, s.sched ≠ .reset :: q) ∧ s.status.errSeen = true ∧ s.status.overrun = true :=
  ⟨{ busyWith 8 [] with
      status := { busy := true, done := false, err := .ok, errSeen := true, overrun := true } }, _, rfl,
    fun q h => (by cases h), rfl, rfl⟩

theorem test_meets_StepKeepsTheInvariant : (busyWith 8 [.complete]).Inv ∧ ∃ t, step (busyWith 8 [.complete]) = .next t :=
  ⟨⟨by decide, by decide, rfl, rfl, Memory.inside_nil _, Memory.inside_nil _, rfl, by decide, by decide⟩, _, rfl⟩

theorem test_meets_OperandsAreLockedWhileBusy :
    ∃ s t : State, s.status.busy = true ∧ step s = .next t ∧ t.status.busy = true :=
  ⟨busyWith 8 [.write 0x010 .word 5], _, rfl, rfl, rfl⟩

theorem test_meets_SourceAttachmentAndIdleEvents :
    step (busyWith 8 [.attach [] []]) = .refused .sourceChangedInCommand ∧
    (∃ src : Bytes, 2 ^ 32 < src.length ∧ (idleWith [.attach src []]).sched = .attach src [] :: []) ∧
    (∃ src : Bytes, src.length = 2 ^ 32 ∧ (idleWith [.attach src []]).sched = .attach src [] :: []) ∧
    (idleWith [.attach [1] [[(0, 1)]]]).status.busy = false ∧
    (busyWith 8 [.tick]).sched = .tick :: [] ∧ (idleWith [.tick]).sched = .tick :: [] ∧
    (idleWith [.complete]).sched = .complete :: [] ∧ (idleWith []).sched = [] :=
  ⟨rfl, ⟨List.replicate (2 ^ 32 + 1) 0, by rw [List.length_replicate]; omega, rfl⟩,
    ⟨List.replicate (2 ^ 32) 0, List.length_replicate, rfl⟩, by decide, by decide, by decide, by decide, by decide⟩

/-- Two commands draw their failing reads each for itself (93_implementation_defined.md U5). -/
theorem test_failing_reads_are_drawn_per_command :
    let s : State := { State.reset with srcDraws := [[(32, 5)], []] }
    (s.accept 8).srcFail = [(32, 5)] ∧ ((s.accept 8).accept 8).srcFail = [] := by decide

theorem test_meets_HostFormsRun :
    (idleWith (mvres 2 5)).status.busy = false ∧ (idleWith (mvres 2 5)).sched = mvres 2 5 ++ [] ∧
    (idleWith (mvres 0 0)).sched = mvres 0 0 ++ [] ∧ (idleWith (call .rdfile)).sched = call .rdfile ++ [] ∧
    (∃ t, exec .rdfile (busyWith 8 [.poll]) = .next t) := ⟨by decide, by decide, by decide, by decide, _, rfl⟩

theorem test_meets_CompletionWritesStatus :
    (∃ t, exec .ctrd (idle 1279 0 0 0 0 0 [] []) = .next t) ∧ (∃ t, exec .ctrd (idle 1280 0 0 0 0 0 [] []) = .next t) ∧
    ∃ t ends u, (busyWith 9 [.complete, .reset]).status.busy = true ∧ step (busyWith 9 [.complete, .reset]) = .next t ∧
      t.status.busy = false ∧ (∀ q, (busyWith 9 [.complete, .reset]).sched ≠ .reset :: q) ∧ t.status.err ≠ .ok ∧
      run 1 t = some (ends, u) ∧ u.ended = true :=
  ⟨⟨_, rfl⟩, ⟨_, rfl⟩, _, _, _, rfl, rfl, rfl, fun q h => (by cases h), by decide, rfl, rfl⟩

/-- 70_reset_and_hazards.md R329: a failure is judged although the reset after it clears ERRSEEN; an abandoned command is no failure. -/
theorem test_judged_bad : judge [true] 2 (busyWith 9 [.complete, .reset]) = some true ∧
    judge [false] 2 (busyWith 9 [.complete, .reset]) = some false ∧ judge [true] 1 (busyWith 9 [.reset]) = some false ∧
    judge [true] 1 (busyWith 9 [.tick]) = none := by decide

theorem test_meets_ErrorEffect :
    (∃ t, exec .ctrd (idle 1280 0 0 0 0 0 [] []) = .next t ∧ t.status.err ≠ .ok) ∧
    (∃ t, exec .rdfile State.reset = .next t ∧ t.status.err ≠ .ok) ∧
    ∃ t, exec .rdfile (State.reset.accept 8) = .next t ∧ t.status.err ≠ .ok :=
  ⟨⟨_, rfl, by decide⟩, ⟨_, rfl, by decide⟩, _, rfl, by decide⟩

theorem test_meets_RegisterCommandsFrame :
    (∀ i ∈ [Instr.ctrd, .hashOffset, .hashNameA, .hashNameB, .hashFileKey, .fkey, .hash3],
      (stateOf (exec i State.reset)).isSome = true) := by decide

theorem test_meets_OutputCommandsFrame :
    State.reset.cfg.wellFormed = true ∧
    (∀ i ∈ [Instr.decrypt, .encrypt, .decomp, .rdfile],
      (stateOf (exec i (idle 0 0 0 0 0x80000000 0 [] []))).map (fun t => t.status.err) = some .ok ∧
      (stateOf (exec i (idle 4097 0 0 0 0 0 [] []))).map (fun t => t.status.err) = some .badArgument) := by decide

theorem test_meets_EveryCommandCompletes :
    ∀ a < (small 0 0 0).cfg.bufBytes, ((small 0 0 0).ibuf.read a).isSome = true := by decide

theorem test_meets_FaultsExactlyOnUnwrittenInput :
    ∀ i ∈ [Instr.hashOffset, .hashNameA, .hashNameB, .hashFileKey, .hash3, .fkey, .decrypt, .encrypt, .decomp],
      exec i (idle 1 0 0 0 0 0 [] []) = .fault .unwrittenInput := by
  intro i hi
  simp only [List.mem_cons, List.not_mem_nil, or_false] at hi
  rcases hi with rfl | rfl | rfl | rfl | rfl | rfl | rfl | rfl | rfl <;> rfl

theorem test_meets_UnitsNeverMatter :
    ∃ t, (busyWith 1 []).status.busy = true ∧ step (busyWith 1 []) = .next t ∧ t.status.busy = false := ⟨_, rfl, rfl, rfl⟩

theorem test_meets_CtrdReadsAnEntry :
    (idle 1279 0 0 0 0 0 [] []).arg0.toNat < 1280 ∧ 1280 ≤ (idle 1280 0 0 0 0 0 [] []).arg0.toNat ∧
    ∃ t, exec .ctrd ((idle 1279 0 0 0 0 0 [] []).accept 1) = .next t := ⟨by decide, by decide, _, rfl⟩

/-- The hypotheses of HashCommandsWriteTheHash, Hash3WritesThreeHashes and FkeyWritesTheEffectiveKey, ADJUSTED_KEY clear and set. -/
theorem test_meets_path_hypotheses :
    (small 4 0 0).arg0.toNat ≤ (small 4 0 0).cfg.bufBytes ∧
    (small 4 0 0).input (small 4 0 0).arg0.toNat = some [0x41, 0x5C, 0x42, 0x2E] ∧
    (small 4 0 0x00020000).input (small 4 0 0x00020000).arg0.toNat = some [0x41, 0x5C, 0x42, 0x2E] ∧
    (small 5 0 0).cfg.bufBytes < (small 5 0 0).arg0.toNat := by decide

theorem test_meets_BaseNameFollowsTheLastSeparator :
    (∀ b ∈ testTxt, b ≠ 0x2F ∧ b ≠ 0x5C) ∧ (∀ b ∈ ([] : Bytes), b ≠ 0x2F ∧ b ≠ 0x5C) ∧
    baseName dirTestTxt = testTxt := by decide

theorem test_meets_PathSpellingNeverMatters :
    ∃ (s t : State) (m : Memory) (p q : Bytes), s.input s.arg0.toNat = some p ∧
      ({ s with ibuf := m }).input s.arg0.toNat = some q ∧ normPath p = normPath q ∧ p ≠ q ∧ exec .fkey s = .next t :=
  ⟨small 4 0 0, _, Memory.ofBytes 0 [0x61, 0x2F, 0x62, 0x2E], [0x41, 0x5C, 0x42, 0x2E], [0x61, 0x2F, 0x62, 0x2E],
    by decide, by decide, by decide, by decide, rfl⟩

theorem test_meets_TailBytesPassUnchanged : ([0xAA, 0xBB, 0xCC] : Bytes).length < 4 ∧ ([] : Bytes).length < 4 := by decide

/-- The hypotheses of CipherCommandsWriteTheWords and RoundTripThroughTheBuffers. -/
theorem test_meets_cipher_hypotheses :
    4 * (small 1 0 0).arg0.toNat ≤ (small 1 0 0).cfg.bufBytes ∧
    (small 1 0 0).input (4 * (small 1 0 0).arg0.toNat) = some [0x41, 0x5C, 0x42, 0x2E] ∧
    (small 2 0 0).cfg.bufBytes < 4 * (small 2 0 0).arg0.toNat := by decide

theorem test_meets_StoredSectorsAndCodecByte :
    ([0x61, 0x62, 0x63] : Bytes).length = 3 ∧ ([0x61, 0x62, 0x63] : Bytes).length ≠ 4 ∧ (0 : Word) &&& 0x00000300 = 0 ∧ 0 < 1 ∧
    (0x00000200 : Word) &&& 0x00000200 ≠ 0 ∧ (0x21 : Byte) ≠ 0x12 ∧ (0x21 : Byte) &&& 0xC5 ≠ 0 := by decide

theorem test_meets_CodecStagesDecide :
    stages .descending 0x3A = .ok [.sparse, .bzip2, .implode, .zlib] ∧ stages .reference 0x00 = .ok [] ∧
    (0x00000200 : Word) &&& 0x00000200 ≠ 0 ∧ sparseZ5.length + 1 ≠ 8 ∧
    (0x00000100 : Word) &&& 0x00000200 = 0 ∧ (0x00000100 : Word) &&& 0x00000100 ≠ 0 ∧ sparseZ5.length ≠ 8 := by decide

theorem test_meets_StageOrders : ∀ cb ∈ [(0x22 : Byte), 0x00, 0x3A], cb ≠ 0x12 ∧ cb &&& 0xC5 = 0 := by decide

theorem test_meets_DecompDecodesOneSector :
    (0x00000200 : Word) &&& 0x00000300 = 0x80010200 &&& 0x00000300 ∧
    (small 5 0 0).cfg.bufBytes < (small 5 0 0).arg0.toNat ∧
    (small 4 5 0).arg0.toNat ≤ (small 4 5 0).cfg.bufBytes ∧ (small 4 5 0).cfg.bufBytes < (small 4 5 0).arg3.toNat ∧
    (small 4 4 0).arg3.toNat ≤ (small 4 4 0).cfg.bufBytes ∧
    (small 4 4 0).input (small 4 4 0).arg0.toNat = some [0x41, 0x5C, 0x42, 0x2E] ∧
    decodeSector .descending [0x41, 0x5C, 0x42, 0x2E] (small 4 4 0).arg3.toNat (small 4 4 0).arg4 =
      .ok [0x41, 0x5C, 0x42, 0x2E] ∧
    decodeSector .descending [0x41, 0x5C, 0x42, 0x2E] (small 4 3 0).arg3.toNat (small 4 3 0).arg4 = .error .decodeError := by
  decide

theorem test_meets_DecompCopiesAStoredSector :
    (small 4 4 0x200).arg0 = (small 4 4 0x200).arg3 ∧ (small 4 4 0x200).arg0.toNat ≤ (small 4 4 0x200).cfg.bufBytes ∧
    (small 4 4 0x200).input (small 4 4 0x200).arg0.toNat = some [0x41, 0x5C, 0x42, 0x2E] := by decide

theorem test_meets_SrcReadCases :
    (0 < 5 ∧ helloSource.length < 33 + 5) ∧ (0 < 5 ∧ (32, 5) ∈ [(32, 5)]) ∧
    (0 < 5 ∧ 32 + 5 ≤ helloSource.length ∧ (32, 5) ∉ ([] : List (Nat × Nat))) := by decide

theorem test_meets_RdfileOperandErrors :
    22 < (idle 23 0 0 0 0 0 [] []).arg0.toNat ∧ (idle 22 0 0 4097 0 0 [] []).arg0.toNat ≤ 22 ∧
    State.reset.cfg.bufBytes < (idle 22 0 0 4097 0 0 [] []).arg3.toNat ∧
    (idle 22 0 0 4096 0 0 [] []).arg3.toNat ≤ State.reset.cfg.bufBytes ∧ (0x01000000 : Word) &&& 0x80000000 = 0 ∧
    (0x83000000 : Word) &&& 0x80000000 ≠ 0 ∧ (0x83000000 : Word) &&& 0x02000000 ≠ 0 := by decide

theorem test_meets_RdfileEmptyFile :
    (idle 22 0 0 0 0x81000000 0 [] []).arg0.toNat ≤ 22 ∧ (idle 22 0 0 0 0x81000000 0 [] []).arg3 = 0 ∧
    (0x81000000 : Word) &&& 0x80000000 ≠ 0 ∧ (0x81000000 : Word) &&& 0x02000000 = 0 := by decide

/-- Vector R1's state, its source read whole or one byte short. -/
def singleUnit (src : Bytes) (usize : Word) : State := idle 0 0x20 5 usize 0x81000000 0 [] src

theorem test_meets_RdfileSingleUnit :
    fileOperands (singleUnit helloSource 5) ∧ (singleUnit helloSource 5).arg4 &&& 0x01000000 ≠ 0 ∧
    readsWell (singleUnit helloSource 5) 32 5 ∧
    decodeSector .descending (decrypted (singleUnit helloSource 5) 0 (slice (singleUnit helloSource 5) 32 5)) 5 0x81000000 =
      .ok [0x68, 0x65, 0x6C, 0x6C, 0x6F] ∧
    fileOperands (singleUnit helloSource 6) ∧
    decodeSector .descending (decrypted (singleUnit helloSource 6) 0 (slice (singleUnit helloSource 6) 32 5)) 6 0x81000000 =
      .error .decodeError ∧
    fileOperands (singleUnit helloSource.dropLast 5) ∧ ¬ readsWell (singleUnit helloSource.dropLast 5) 32 5 := by
  simp only [fileOperands, readsWell, decrypted]
  decide +kernel

theorem test_meets_RdfileStoredFile :
    fileOperands (singleUnit helloSource 5) ∧ (0x81000000 : Word) &&& 0x01000000 ≠ 0 ∧ (0x81000000 : Word) &&& 0x00010000 = 0 ∧
    (singleUnit helloSource 5).arg2 = (singleUnit helloSource 5).arg3 ∧
    (singleUnit helloSource 5).arg1.toNat + (singleUnit helloSource 5).arg3.toNat ≤ (singleUnit helloSource 5).src.length ∧
    ((singleUnit helloSource 5).arg1.toNat, (singleUnit helloSource 5).arg3.toNat) ∉ (singleUnit helloSource 5).srcFail := by
  simp only [fileOperands]
  decide

/-- A file of 513 bytes in two stored sectors without a table, in a source of `n` bytes. -/
def twoSectors (n : Nat) : State :=
  { idle 0 0 513 513 0x80000000 0 [] (List.replicate n 7) with
    cfg := { bufBytes := 4096, codecOrder := .descending, offsetTable := .compressedOnly } }

theorem test_meets_RdfileSectoredFile :
    ∃ (s : State) (off : List Nat) (piece : Nat → Bytes), fileOperands s ∧ s.arg4 &&& 0x01000000 = 0 ∧ fileOffsets s off ∧
      sectorCount s = 2 ∧
      ∀ i < sectorCount s,
        readsWell s (s.arg1.toNat + off.getD i 0) (off.getD (i + 1) 0 - off.getD i 0) ∧
        decodeSector s.cfg.codecOrder
          (decrypted s (s.arg5 + BitVec.ofNat 32 i)
            (slice s (s.arg1.toNat + off.getD i 0) (off.getD (i + 1) 0 - off.getD i 0)))
          (min (sectorSize s) (s.arg3.toNat - i * sectorSize s)) s.arg4 = .ok (piece i) := by
  refine ⟨twoSectors 513, [0, 512, 513], fun i => List.replicate (if i = 0 then 512 else 1) 7, ?_, by decide, ?_, by decide, ?_⟩
  · simp only [fileOperands]
    decide
  · rw [fileOffsets, if_neg (by decide)]
    decide +kernel
  · simp only [readsWell, decrypted]
    decide +kernel

/-- A file of one byte whose table says that its sector has two stored bytes. -/
def longSector : State := idle 0 0 10 1 0x80000000 0 [] [8, 0, 0, 0, 10, 0, 0, 0, 1, 2]

theorem test_meets_FirstFailingSectorEnds :
    (fileOperands (twoSectors 512) ∧ fileOffsets (twoSectors 512) [0, 512, 513] ∧ 1 < sectorCount (twoSectors 512) ∧
      readsWell (twoSectors 512) 0 512 ∧
      decodeSector .descending (decrypted (twoSectors 512) 0 (slice (twoSectors 512) 0 512)) 512 0x80000000 =
        .ok (List.replicate 512 7) ∧
      ¬ readsWell (twoSectors 512) 512 1) ∧
    (fileOperands longSector ∧ fileOffsets longSector [8, 10] ∧ 0 < sectorCount longSector ∧ readsWell longSector 8 2 ∧
      decodeSector .descending (decrypted longSector 0 (slice longSector 8 2)) 1 0x80000000 = .error .decodeError) := by
  refine ⟨⟨?_, ?_, ?_⟩, ?_, ?_, ?_⟩
  · simp only [fileOperands]
    decide
  · rw [fileOffsets, if_neg (by decide)]
    decide +kernel
  · simp only [readsWell, decrypted]
    decide +kernel
  · simp only [fileOperands]
    decide
  · rw [fileOffsets, if_pos (.inl rfl)]
    simp only [readsWell, decrypted]
    decide +kernel
  · simp only [readsWell, decrypted]
    decide +kernel

/-- A file of one byte whose table is all zeros, or lacks its last byte. -/
def zeroTable (n : Nat) : State := idle 0 0 10 1 0x80000000 0 [] (List.replicate n 0)

theorem test_meets_ImplausibleTableIsAnError :
    fileOperands (zeroTable 8) ∧ (zeroTable 8).arg4 &&& 0x01000000 = 0 ∧ (zeroTable 8).cfg.offsetTable = .always ∧
    readsWell (zeroTable 8) 0 8 ∧ (¬ ∃ off, fileOffsets (zeroTable 8) off) ∧
    fileOperands (zeroTable 7) ∧ ¬ readsWell (zeroTable 7) 0 8 := by
  refine ⟨?_, by decide, by decide, ?_, ?_, ?_, ?_⟩
  · simp only [fileOperands]
    decide
  · simp only [readsWell]
    decide
  · rintro ⟨off, h⟩
    rw [fileOffsets, if_pos (.inl rfl)] at h
    obtain ⟨-, rfl, h, -⟩ := h
    revert h
    simp only [decrypted]
    decide +kernel
  · simp only [fileOperands]
    decide
  · simp only [readsWell]
    decide

theorem test_meets_ExpectedLengthsSumToTheFile : 0 < (twoSectors 513).job.usize := by decide

end Sys2Proof.Tests
end

section
/-! PROOFS. The machine's invariant: a completion, a host access, a reset and an attachment each keep it, so every step does. -/

namespace Sys2Proof.Machine

/-- The invariant does not speak of the results of a command that completes, nor of its STATUS; OBUF must stay legal. -/
theorem State.Inv.complete {s : State} (h : s.Inv) (k : Code) (r0 r1 r2 : Word) (m : Memory) (hwf : m.wf = true)
    (hin : m.inside s.cfg.bufBytes) : (({ s with res0 := r0, res1 := r1, res2 := r2, obuf := m }).complete k).Inv where
  params := h.params
  srcSize := h.srcSize
  ibufWf := h.ibufWf
  obufWf := hwf
  ibufSize := h.ibufSize
  obufSize := hin
  units := rfl
  busyDone := by simp
  busyRes := by simp

/-- The model's own fields are not part of the invariant. -/
theorem State.Inv.ownFields {s : State} (h : s.Inv) (q : List Event) (r : BusReply) (l : Word) (d : Nat) :
    ({ s with sched := q, reply := r, lastRead := l, draws := d }).Inv :=
  { h with }

theorem State.Inv.ends {i : Instr} {s t : State} (h : s.Inv) (he : Ends i s t) : t.Inv := by
  cases he with
  | error code =>
    refine h.complete code s.res0 s.res1 s.res2 _ ?_ ?_ <;> split
    · rfl
    · exact h.obufWf
    · exact Memory.inside_nil _
    · exact h.obufSize
  | results r0 r1 r2 => exact h.complete .ok r0 r1 r2 s.obuf h.obufWf h.obufSize
  | output len out hi hb =>
    exact h.complete .ok len s.res1 s.res2 _ (Memory.wf_ofBytes out 0) (Memory.inside_ofBytes out 0 _ (by omega))

theorem State.Inv.coreStep {s t : State} (h : s.Inv) (hs : coreStep s = .next t) : t.Inv := by
  rcases coreStep_cases s t hs with ⟨i, -, -, he⟩ | ⟨e, -, rfl⟩
  · exact h.ends he
  · exact h.complete .illegalCommand s.res0 s.res1 s.res2 s.obuf h.obufWf h.obufSize

theorem State.Inv.writes {s t : State} (h : s.Inv) (hw : Writes s t) : t.Inv := by
  cases hw with
  | busError => exact { h with }
  | ignored => exact { h with }
  | dropped => exact { h with }
  | accepted v hb => exact { h with busyDone := fun _ => rfl, busyRes := fun _ => ⟨rfl, rfl, rfl⟩ }
  | status v =>
    exact { h with
      busyDone := fun hb => by simp [h.busyDone (by simpa using hb)]
      busyRes := fun hb => h.busyRes (by simpa using hb) }
  | ctrl v => exact { h with }
  | args => exact { h with }
  | ibuf i bs hb hi =>
    exact { h with
      ibufWf := Memory.wf_writeBytes bs _ i h.ibufWf
      ibufSize := Memory.inside_writeBytes bs _ i _ h.ibufSize hi }

theorem State.Inv.resetCore {s : State} (h : s.Inv) : s.resetCore.Inv where
  params := h.params
  srcSize := h.srcSize
  ibufWf := rfl
  obufWf := rfl
  ibufSize := Memory.inside_nil _
  obufSize := Memory.inside_nil _
  units := rfl
  busyDone := by simp [Status.cleared]
  busyRes := by simp

/-- Settles O19: each way a step can go keeps the invariant. -/
theorem stepKeepsTheInvariant : Obligations.StepKeepsTheInvariant := by
  intro s t h hs
  cases step_steps s t hs with
  | core q t hb hc => exact State.Inv.coreStep (h.ownFields q s.reply s.lastRead s.draws) hc
  | idle q => exact h.ownFields q s.reply s.lastRead s.draws
  | read q off w =>
    obtain ⟨r, l, d, he⟩ := busRead_frame off w { s with sched := q }
    rw [he]
    exact h.ownFields q r l d
  | write q t hw => exact State.Inv.writes (h.ownFields q s.reply s.lastRead s.draws) hw
  | reset q => exact State.Inv.resetCore (h.ownFields q s.reply s.lastRead s.draws)
  | attach q src fails hb hl => exact { h with srcSize := hl }

/-- Settles O20: the buffers are empty, the units cleared and no command is in progress. -/
theorem resetMeetsTheInvariant : Obligations.ResetMeetsTheInvariant where
  params := by decide
  srcSize := by decide
  ibufWf := rfl
  obufWf := rfl
  ibufSize := Memory.inside_nil _
  obufSize := Memory.inside_nil _
  units := rfl
  busyDone := by decide
  busyRes := by decide

end Sys2Proof.Machine
end

section
/-! PROOFS. What a host access does: a read of a place, a write of a register or of IBUF, and the busy lock (10_state.md R23 to R32). -/

namespace Sys2Proof.Machine

open Sys2Proof.Claims

/-! ### One step that is a host access -/

/-- A read of a place replies its value and advances the draws by the bytes of the access. -/
theorem step_read_place {s : State} {off : Nat} {w : Width} {q : List Event} {p : Place}
    (h : s.sched = .read off w :: q) (hp : placeOf s.cfg off w = some p) :
    ∃ t, step s = .next t ∧ t.reply = .value (s.valueAt p w) ∧ t.draws = s.draws + w.bytes :=
  ⟨_, step_read s off w q h, by rw [busRead_some { s with sched := q } off w p hp]; cases p <;> exact ⟨rfl, rfl⟩⟩

theorem step_read_register {s : State} {off : Nat} {q : List Event} (h : s.sched = .read off .word :: q)
    (hoff : off < 0x100) (h4 : off % 4 = 0) :
    ∃ t, step s = .next t ∧ t.reply = .value (s.valueAt (.register off) .word) ∧ t.draws = s.draws + 4 :=
  step_read_place h (placeOf_register _ _ hoff h4)

theorem step_write_register {s : State} {off : Nat} {v : Word} {q : List Event} (h : s.sched = .write off .word v :: q)
    (hoff : off < 0x100) (h4 : off % 4 = 0) :
    step s = .next { ({ s with sched := q }).writeRegister off v with reply := .done } := by
  rw [step_write s off .word v q h, busWrite_register _ _ _ hoff h4]

/-! ### What a register reads, and what a write of it does -/

theorem isResult_iff (off : Nat) : isResult off = true ↔ off ∈ resOffsets := by simp [isResult, resOffsets, or_assoc]

/-- Only a result register, and only while a command is in progress, reads as a draw (10_state.md R32). -/
theorem valueAt_register {s : State} {off : Nat} (h : s.status.busy = false ∨ isResult off = false) (w : Width) :
    s.valueAt (.register off) w = s.readRegister off := by
  rcases h with h | h <;> simp [State.valueAt, h]

theorem valueAt_result_busy {s : State} {off : Nat} (hb : s.status.busy = true) (h : off ∈ resOffsets) (w : Width) :
    s.valueAt (.register off) w = Config.draw s.draws := by
  simp [State.valueAt, hb, (isResult_iff off).mpr h]

/-- The busy lock on the registers (10_state.md R31). -/
theorem writeRegister_busy {s : State} {off : Nat} (hb : s.status.busy = true) (h : off = 0x000 ∨ off ∈ argOffsets)
    (v : Word) : s.writeRegister off v = s.dropWrite := by
  simp only [argOffsets, List.mem_cons, List.not_mem_nil, or_false] at h
  rcases h with rfl | rfl | rfl | rfl | rfl | rfl | rfl <;> exact State.unlessBusy_busy s _ hb

/-- Results and reserved offsets ignore a write (10_state.md R25). -/
theorem writeRegister_ignored {s : State} {off : Nat} (h : off ∉ [0x000, 0x004, 0x008]) (ha : off ∉ argOffsets) (v : Word) :
    s.writeRegister off v = s := by
  unfold State.writeRegister
  split
  case h_10 => rfl
  all_goals simp [argOffsets] at h ha

/-- Reserved offsets read 0 (10_state.md R23). -/
theorem readRegister_reserved {s : State} {off : Nat} (h : off ∉ [0x000, 0x004, 0x008]) (ha : off ∉ argOffsets)
    (hr : off ∉ resOffsets) : s.readRegister off = 0 := by
  unfold State.readRegister
  split
  case h_13 => rfl
  all_goals simp [argOffsets, resOffsets] at h ha hr

/-- The registers that hold something, each with what a host reads there while no unspecified value is involved (10_state.md R23); the
last three are the results. -/
def registers (s : State) : List (Nat × Word) :=
  [(0x000, s.cmd), (0x004, s.status.toWord), (0x008, s.ctrl.toWord), (0x010, s.arg0), (0x014, s.arg1), (0x018, s.arg2),
    (0x01C, s.arg3), (0x020, s.arg4), (0x024, s.arg5), (0x040, s.res0), (0x044, s.res1), (0x048, s.res2)]

theorem readRegister_of_mem {s : State} {p : Nat × Word} (h : p ∈ registers s) :
    s.readRegister p.1 = p.2 ∧ p.1 < 0x100 ∧ p.1 % 4 = 0 := by
  revert p
  simp [registers, State.readRegister]

theorem isResult_of_mem_take {s : State} {p : Nat × Word} (h : p ∈ (registers s).take 9) : isResult p.1 = false := by
  revert p
  simp [registers, isResult]

theorem resOffsets_aligned : ∀ off ∈ resOffsets, off < 0x100 ∧ off % 4 = 0 := by decide

theorem locked_aligned {off : Nat} (h : off = 0x000 ∨ off ∈ argOffsets) : off < 0x100 ∧ off % 4 = 0 := by
  have : ∀ off ∈ 0x000 :: argOffsets, off < 0x100 ∧ off % 4 = 0 := by decide
  exact this off (List.mem_cons.mpr h)

/-- A write of CMD or of an operand register while no command is in progress acts. -/
theorem step_write_idle {s t : State} {off : Nat} {v : Word} {q : List Event} (hb : s.status.busy = false)
    (h : s.sched = .write off .word v :: q) (hoff : off = 0x000 ∨ off ∈ argOffsets)
    (ht : ({ s with sched := q }).writeRegister off v = ({ s with sched := q }).unlessBusy t) :
    step s = .next { t with reply := .done } := by
  rw [step_write_register h (locked_aligned hoff).1 (locked_aligned hoff).2, ht,
    State.unlessBusy_idle { s with sched := q } t hb]

/-! ### A buffer's bytes as a host reads them -/

/-- A step that reads place `p`, which shows the buffer `m` at offset `i`: each specified byte in its place, low byte first, and a
draw for each unspecified one. -/
theorem step_read_buffer {s : State} {off : Nat} {w : Width} {q : List Event} {p : Place} {m : Memory} {i : Nat}
    (h : s.sched = .read off w :: q) (hp : placeOf s.cfg off w = some p)
    (hv : s.valueAt p w = leValue (readDrawn m i s.draws w.bytes)) :
    ∃ t v, step s = .next t ∧ t.reply = .value v ∧ s.draws + w.bytes ≤ t.draws ∧ v.toNat < 2 ^ (8 * w.bytes) ∧
      ∀ k < w.bytes, v.extractLsb' (8 * k) 8 = (m.read (i + k)).getD (drawByte (s.draws + k)) := by
  obtain ⟨t, ht, hr, hd⟩ := step_read_place h hp
  obtain ⟨hlt, hbytes⟩ := leValue_readDrawn m i s.draws w
  exact ⟨t, _, ht, hv ▸ hr, hd.ge, hlt, hbytes⟩

/-- The buffers start at multiples of every width, so an access is aligned when its offset in the buffer is. -/
theorem buffer_aligned {w : Width} {i : Nat} (n : Nat) (h : i % w.bytes = 0) : (0x10000 * n + i) % w.bytes = 0 := by
  cases w <;> simp only [Width.bytes] at h ⊢ <;> omega

/-! ### The obligations -/

/-- Settles O7: the busy lock drops a write of CMD, of an operand or of IBUF; STATUS and CTRL are not behind it. -/
theorem busyWritesAreDropped : Obligations.BusyWritesAreDropped := by
  intro s off w v q hb h
  refine ⟨?_, ?_, ?_⟩
  · rintro (⟨rfl, hoff⟩ | ⟨h4, hlo, hhi⟩)
    · obtain ⟨hlt, h4⟩ := locked_aligned hoff
      rw [step_write_register h hlt h4, writeRegister_busy (s := { s with sched := q }) hb hoff]
      rfl
    · obtain ⟨i, rfl⟩ := Nat.exists_eq_add_of_le hlo
      rw [step_write s _ w v q h, busWrite_ibuf { s with sched := q } i w v h4 (by simpa [Nat.add_assoc] using hhi),
        State.unlessBusy_busy { s with sched := q } _ hb]
      rfl
  · rintro ⟨rfl, rfl⟩
    exact step_write_register h (by decide) (by decide)
  · rintro ⟨rfl, rfl⟩
    exact step_write_register h (by decide) (by decide)

/-- Settles O8: the place of the access decides what the read returns. -/
theorem readsBusyAndIdle : Obligations.ReadsBusyAndIdle := by
  intro s off w q h
  refine ⟨?_, ?_, ?_, ?_, ?_⟩
  · rintro hb rfl hoff
    obtain ⟨hlt, h4⟩ := resOffsets_aligned off hoff
    obtain ⟨t, ht, hr, hd⟩ := step_read_register h hlt h4
    exact ⟨t, ht, by rw [hr, valueAt_result_busy hb hoff], by omega⟩
  · rintro i rfl h4 hi hmax
    obtain ⟨t, v, ht, hr, hd, hlt, hbytes⟩ :=
      step_read_buffer h (placeOf_inObuf s.cfg i w (buffer_aligned 2 h4) hi hmax) rfl
    refine ⟨t, v, ht, hr, hd, hlt, fun k hk => ?_⟩
    rw [hbytes k hk]
    cases s.status.busy <;> rfl
  · rintro i rfl h4 hi
    exact step_read_buffer h (placeOf_inIbuf s.cfg i w (buffer_aligned 1 h4) hi) rfl
  · rintro rfl p hp rfl
    obtain ⟨hval, hlt, h4⟩ := readRegister_of_mem (List.mem_of_mem_take (l := registers s) (i := 9) hp)
    obtain ⟨t, ht, hr, -⟩ := step_read_register h hlt h4
    exact ⟨t, ht, by rw [hr, valueAt_register (.inr (isResult_of_mem_take hp)), hval]⟩
  · rintro i hi rfl rfl
    obtain ⟨t, ht, hr, -⟩ := step_read_place h (placeOf_ctEntry s.cfg i hi)
    exact ⟨t, ht, hr⟩

/-- Settles O11: an operand write of an idle core, a read of each register, and the offsets that ignore writes. -/
theorem registerPage : Obligations.RegisterPage := by
  refine ⟨fun s v q hb => ⟨fun h => ?_, fun h => ?_, fun h => ?_, fun h => ?_, fun h => ?_, fun h => ?_⟩, ?_, ?_⟩
  · exact step_write_idle (t := { s with arg0 := v, sched := q }) hb h (by decide) rfl
  · exact step_write_idle (t := { s with arg1 := v, sched := q }) hb h (by decide) rfl
  · exact step_write_idle (t := { s with arg2 := v, sched := q }) hb h (by decide) rfl
  · exact step_write_idle (t := { s with arg3 := v, sched := q }) hb h (by decide) rfl
  · exact step_write_idle (t := { s with arg4 := v, sched := q }) hb h (by decide) rfl
  · exact step_write_idle (t := { s with arg5 := v, sched := q }) hb h (by decide) rfl
  · rintro s off q h hb p hp rfl
    obtain ⟨hval, hlt, h4⟩ := readRegister_of_mem (s := s) hp
    obtain ⟨t, ht, hr, -⟩ := step_read_register h hlt h4
    exact ⟨t, ht, by rw [hr, valueAt_register (.inl hb), hval]⟩
  · intro s off v q h4 hlt hctl harg
    refine ⟨fun h => ?_, fun hres h => ?_⟩
    · rw [step_write_register h hlt h4, writeRegister_ignored hctl harg]
    · have hnot : isResult off = false := by rwa [← Bool.not_eq_true, isResult_iff]
      obtain ⟨t, ht, hr, -⟩ := step_read_register h hlt h4
      exact ⟨t, ht, by rw [hr, valueAt_register (.inr hnot), readRegister_reserved hctl harg hres]⟩

theorem Status.written_eq (st : Status) (v : Word) : st.written v = { st with done := st.done && !v.getLsbD 1 } := by
  unfold Status.written
  cases v.getLsbD 1 <;> simp

theorem Ctrl.toWord_written (c : Ctrl) (v : Word) : (c.written v).toWord = v &&& 1 := by
  rw [show (1 : Word) = 1#32 from rfl, BitVec.and_one_eq_setWidth_ofBool_getLsbD, Ctrl.toWord, Ctrl.written]
  cases v.getLsbD 0 <;> rfl

/-- Each field of STATUS stands at its bits (10_state.md R26): the word is a concatenation, whose lower parts are taken off one by one. -/
theorem Status.toWord_fields (st : Status) :
    st.toWord.getLsbD 0 = st.busy ∧ st.toWord.getLsbD 1 = st.done ∧ st.toWord.extractLsb' 2 6 = 0 ∧
    st.toWord.extractLsb' 8 8 = st.err.toByte ∧ st.toWord.getLsbD 16 = st.errSeen ∧
    st.toWord.getLsbD 17 = st.overrun ∧ st.toWord.extractLsb' 18 14 = 0 := by
  unfold Status.toWord
  refine ⟨?busy, ?done, ?reserved, ?err, ?errSeen, ?overrun, ?high⟩
  case busy | done | errSeen | overrun =>
    simp only [BitVec.getLsbD_append]
    simp
  case reserved =>
    iterate 2 rw [BitVec.extractLsb'_append_eq_of_le (by decide)]
    exact BitVec.extractLsb'_append_eq_right
  case err =>
    iterate 3 rw [BitVec.extractLsb'_append_eq_of_le (by decide)]
    exact BitVec.extractLsb'_append_eq_right
  case high =>
    iterate 6 rw [BitVec.extractLsb'_append_eq_of_le (by decide)]
    rfl

/-- Settles O12: the fields of the word, the table of the codes, and the write of STATUS. -/
theorem statusFieldsAndClear : Obligations.StatusFieldsAndClear := by
  refine ⟨Status.toWord_fields, rfl, fun s v q h => ?_⟩
  rw [← Status.written_eq]
  exact step_write_register h (by decide) (by decide)

/-- Settles O13: the write keeps bit 0, and the read after it shows CTRL as a word. -/
theorem ctrlKeepsOnlyIe : Obligations.CtrlKeepsOnlyIe := by
  intro s v q h
  have hw := step_write_register h (by decide) (by decide)
  obtain ⟨t', ht', hr, -⟩ := step_read_register
    (s := { s with ctrl := s.ctrl.written v, sched := .read 0x008 .word :: q, reply := .done }) rfl (by decide) (by decide)
  refine ⟨_, t', hw, rfl, rfl, rfl, ht', ?_⟩
  rw [hr, valueAt_register (.inr rfl)]
  exact congrArg BusReply.value (Ctrl.toWord_written s.ctrl v)

end Sys2Proof.Machine
end

section
/-! PROOFS. How a command starts and ends in a step: acceptance, the command that CMD decodes to, completion and the judgement of a run
(10_state.md R28, R33; 70_reset_and_hazards.md R329). -/

namespace Sys2Proof.Machine

open Sys2Proof.Claims

/-! ### Decoding -/

theorem roundTrip (i : Instr) : Laws.RoundTrip.Statement i := by
  cases i with
  | ctrd => exact Laws.RoundTrip.ctrd
  | hashOffset => exact Laws.RoundTrip.hashOffset
  | hashNameA => exact Laws.RoundTrip.hashNameA
  | hashNameB => exact Laws.RoundTrip.hashNameB
  | hashFileKey => exact Laws.RoundTrip.hashFileKey
  | hash3 => exact Laws.RoundTrip.hash3
  | fkey => exact Laws.RoundTrip.fkey
  | decrypt => exact Laws.RoundTrip.decrypt
  | encrypt => exact Laws.RoundTrip.encrypt
  | decomp => exact Laws.RoundTrip.decomp
  | rdfile => exact Laws.RoundTrip.rdfile

theorem decodeWord_encode (i : Instr) : decodeWord (encode i) = .ok i := by
  obtain ⟨-, hword, -⟩ := roundTrip i
  exact hword

theorem opcodeOf_none {opc : BitVec 8} (h : opc.toNat < 1 ∨ 8 < opc.toNat) : opcodeOf opc = none := by
  unfold opcodeOf
  split
  case h_9 => rfl
  all_goals omega

theorem opcodeOf_hash {opc : BitVec 8} (h : opcodeOf opc = some .hash) : opc = 2 := by
  unfold opcodeOf at h
  split at h
  case h_2 h2 => exact BitVec.eq_of_toNat_eq h2
  all_goals cases h

/-- The decoder accepts no illegal word (30_encoding.md R91). -/
theorem decodeWord_illegal {v : Word} (h : illegalWord v) : ∃ e, decodeWord v = .error e := by
  unfold decodeWord decodeFields
  by_cases hr : (fieldsOf v).rsvd ≠ 0
  · exact ⟨_, if_pos hr⟩
  · rw [if_neg hr]
    rcases ho : opcodeOf (fieldsOf v).opc with _ | op
    · exact ⟨_, rfl⟩
    · refine ⟨_, if_pos ?_⟩
      rcases h with h | h | h | ⟨hopc, hkind⟩
      · exact absurd h hr
      · rw [fieldsOf, opcodeOf_none (.inl h)] at ho; cases ho
      · rw [fieldsOf, opcodeOf_none (.inr h)] at ho; cases ho
      · exact ⟨fun he => hopc (opcodeOf_hash (he ▸ ho)), hkind⟩

/-! ### The core's turn -/

theorem coreStep_ok {s : State} {i : Instr} (h : decodeWord s.cmd = .ok i) : coreStep s = exec i s := by
  simp only [coreStep, h]

theorem coreStep_illegal {s : State} (h : illegalWord s.cmd) : coreStep s = .next (s.complete .illegalCommand) := by
  obtain ⟨e, he⟩ := decodeWord_illegal h
  simp only [coreStep, he]

theorem step_complete {s : State} {q : List Event} (hb : s.status.busy = true) (h : s.sched = .complete :: q) :
    step s = coreStep { s with sched := q } := by
  simp only [step, turn, h, eventTurn, coreTurn, hb, if_true]

theorem step_poll {s : State} {q : List Event} (hb : s.status.busy = true) (h : s.sched = .poll :: q) :
    step s = coreStep s := by
  simp only [step, turn, h, eventTurn, pollTurn, hb, if_true]

/-- With no event left, a step is the command in progress, or the completion of an illegal word. -/
theorem step_runs {s : State} (hb : s.status.busy = true) (h : s.sched = []) :
    (∀ i, decodeWord s.cmd = .ok i → step s = exec i s) ∧ (illegalWord s.cmd → fails (step s) s .illegalCommand) := by
  rw [step_busy s hb h]
  exact ⟨fun i hi => coreStep_ok hi, fun hv => ⟨_, coreStep_illegal hv⟩⟩

/-- The step after an acceptance runs the command, whether or not other events were pending. -/
theorem step_accepted (v : Word) (s : State) : step (s.accepted v) = coreStep (s.accept v) := by
  cases hs : s.sched with
  | nil =>
    have : s.accepted v = s.accept v := by simp [State.accepted, State.accept, hs]
    rw [this, step_busy (s.accept v) rfl hs]
  | cons e q =>
    rw [step_complete (q := s.sched) rfl (by simp [State.accepted, hs])]
    rfl

/-- Settles O4: the core's turn comes with no event left, with the completion first, with a wait, and after an acceptance. -/
theorem stepRunsTheDecodedCommand : Obligations.StepRunsTheDecodedCommand := by
  refine ⟨fun s i hb hi => ⟨fun h => ?_, fun q h => ?_, fun q h => ?_⟩, fun s i => ?_⟩
  · exact (step_runs hb h).1 i hi
  · rw [step_complete hb h, coreStep_ok (s := { s with sched := q }) hi]
  · rw [step_poll hb h, coreStep_ok hi]
  · have hword : BitVec.ofNat 32 ((encode i).toNat % 2 ^ 32) = encode i := by
      rw [Nat.mod_eq_of_lt (encode i).isLt, BitVec.ofNat_toNat, BitVec.setWidth_eq]
    rw [State.withFetchWord, hword, step_accepted, coreStep_ok (s := s.accept (encode i)) (decodeWord_encode i)]

/-- Settles O6: the write of CMD is an acceptance, and with no event left the core's turn follows. -/
theorem acceptanceStartsTheCommand : Obligations.AcceptanceStartsTheCommand := by
  intro s v q hb h
  let t : State := { ({ s with sched := q }).accept v with reply := .done }
  exact ⟨t, step_write_idle hb h (.inl rfl) rfl, rfl, fun hq => step_runs (s := t) rfl hq⟩

/-! ### Completion -/

/-- However a command completes, it writes STATUS with a code and clears the units (10_state.md R33, R36). -/
theorem Ends.completes {i : Instr} {s t : State} (h : Ends i s t) :
    ∃ k, t.status = s.status.completed k ∧ t.units = Units.cleared := by
  cases h with
  | error k => exact ⟨k, rfl, rfl⟩
  | results => exact ⟨.ok, rfl, rfl⟩
  | output => exact ⟨.ok, rfl, rfl⟩

theorem coreStep_completes {s t : State} (h : coreStep s = .next t) :
    ∃ k, t.status = s.status.completed k ∧ t.units = Units.cleared := by
  rcases coreStep_cases s t h with ⟨i, -, -, he⟩ | ⟨e, -, rfl⟩
  · exact he.completes
  · exact ⟨.illegalCommand, rfl, rfl⟩

/-- No host write ends a command. -/
theorem Writes.busy {s t : State} (h : Writes s t) (hb : s.status.busy = true) : t.status.busy = true := by
  cases h <;> simp [hb]

/-- A step in which a command ends is a completion, or the reset input. -/
theorem step_endsCommand {s t : State} (hb : s.status.busy = true) (h : step s = .next t) (ht : t.status.busy = false) :
    (∃ q, coreStep { s with sched := q } = .next t) ∨
    (∃ q, s.sched = .reset :: q ∧ t = ({ s with sched := q }).resetCore) := by
  cases step_steps s t h with
  | core q t _ hc => exact .inl ⟨q, hc⟩
  | idle q => rw [hb] at ht; cases ht
  | read q off w =>
    obtain ⟨r, l, d, he⟩ := busRead_frame off w { s with sched := q }
    rw [he, hb] at ht; cases ht
  | write q t hw => rw [hw.busy hb] at ht; cases ht
  | reset q hq => exact .inr ⟨q, hq, rfl⟩
  | attach q src fails hi => rw [hb] at hi; cases hi

/-- A run one step longer. -/
theorem run_succ {s t u : State} {n : Nat} {ends : List CommandEnd} (h : step s = .next t) (hr : run n t = some (ends, u)) :
    run (n + 1) s = some ((commandEnd s t).toList ++ ends, u) := by
  simp only [run, h, hr, Option.map_some]

/-- A command expected to succeed that ends first, and with a failure, makes the run bad. -/
theorem judge_failed {s t u : State} {n : Nat} {ends : List CommandEnd} {expected : List Bool} {e : CommandEnd}
    (h : step s = .next t) (hr : run n t = some (ends, u)) (hu : u.ended = true) (he : commandEnd s t = some e)
    (hf : e.failed = true) : judge (true :: expected) (n + 1) s = some true := by
  simp [judge, run_succ h hr, hu, he, State.judgedBad, hf]

/-- Settles O24: a command that ends without a reset has completed, and its code is the one the run is judged by. -/
theorem completionWritesStatus : Obligations.CompletionWritesStatus := by
  refine ⟨fun i s t h => ?_, fun s t hb h ht hreset => ?_⟩
  · obtain ⟨k, hk, -⟩ := (exec_ends i s t h).completes
    rw [hk]
    rfl
  · obtain ⟨q, hc⟩ | ⟨q, hq, -⟩ := step_endsCommand hb h ht
    · obtain ⟨k, hk, -⟩ := coreStep_completes hc
      have hend : commandEnd s t = some (.completed t.status.err) := by simp [commandEnd, hb, hk]
      exact ⟨hend, fun herr n expected ends u hr hu => judge_failed h hr hu hend (by simpa [CommandEnd.failed] using herr)⟩
    · exact absurd hq (hreset q)

/-- Settles O16: every arm of a register read shows a field that reset clears. -/
theorem resetLeavesZeroRegisters : Obligations.ResetLeavesZeroRegisters := by
  refine ⟨fun off _ => ?_, rfl, rfl, fun _ => rfl, fun _ => rfl⟩
  unfold State.readRegister
  split <;> rfl

end Sys2Proof.Machine
end

section
/-! PROOFS. The frames of the commands, and when a command faults (10_state.md R24, R25, R34, R35, R39). -/

namespace Sys2Proof.Machine

open Sys2Proof.Claims

/-! ### Register commands -/

/-- A command that does not write OBUF changes results, STATUS and the units. -/
theorem Ends.registerFrame {i : Instr} {s t : State} (h : Ends i s t) (hw : writesObuf i = false) :
    t = { s with res0 := t.res0, res1 := t.res1, res2 := t.res2, status := t.status, units := t.units } := by
  cases h with
  | error k => simp only [hw]; rfl
  | results => rfl
  | output len out hi => rw [hw] at hi; cases hi

/-- Only HASH3 writes RES1 and RES2 (10_state.md R24). -/
theorem Ends.res1_res2 {i : Instr} {s t : State} (h : Ends i s t) (hi : i ≠ .hash3) : t.res1 = s.res1 ∧ t.res2 = s.res2 := by
  cases h with
  | error k => exact ⟨rfl, rfl⟩
  | results r0 r1 r2 hw h12 => exact h12 hi
  | output len out => exact ⟨rfl, rfl⟩

/-- Settles O26: the frame of a command that does not write OBUF, and for all but HASH3 the two further results. -/
theorem registerCommandsFrame : Obligations.RegisterCommandsFrame := by
  refine ⟨fun i hi s t h => ?_, fun s t h => (exec_ends .hash3 s t h).registerFrame rfl⟩
  have hmem : ∀ i ∈ [Instr.ctrd, .hashOffset, .hashNameA, .hashNameB, .hashFileKey, .fkey],
      writesObuf i = false ∧ i ≠ .hash3 := by decide
  obtain ⟨hw, hne⟩ := hmem i hi
  have he := exec_ends i s t h
  have hframe := he.registerFrame hw
  rw [(he.res1_res2 hne).1, (he.res1_res2 hne).2] at hframe
  exact hframe

/-! ### Commands that write OBUF -/

theorem Params.bufBytes_le {p : Params} (h : p.wellFormed = true) : p.bufBytes ≤ 65536 := by
  simp only [Params.wellFormed, Bool.and_eq_true, decide_eq_true_eq] at h
  exact h.1.2

/-- How a command that writes OBUF ends: with an error, or with RES0 bytes of output. -/
def EndsWithOutput (s t : State) : Prop :=
  (∃ k, k ≠ .ok ∧ t = s.completeError k) ∨ ∃ len out, out.length = len.toNat ∧ t = s.completeOutput len out

theorem cipherCommand_output {run : Cipher → List Word → Cipher × List Word} {s t : State}
    (hl : ∀ c ws, (run c ws).2.length = ws.length) (hs : s.cfg.wellFormed = true) (h : cipherCommand run s = .next t) :
    EndsWithOutput s t := by
  rcases cipherCommand_cases run s with ⟨-, he⟩ | ⟨hn, bs, hb, he⟩ | ⟨-, -, he⟩ <;> rw [he] at h <;> cases h
  · exact .inl ⟨_, by decide, rfl⟩
  · have hmax := Params.bufBytes_le hs
    have hlen : (4 * s.arg0).toNat = 4 * s.arg0.toNat := by bv_omega
    refine .inr ⟨_, _, ?_, rfl⟩
    rw [unwords_length, hl, wordsOf_length, input_length _ _ _ hb, hlen]
    omega

theorem execDecomp_output {s t : State} (h : execDecomp s = .next t) : EndsWithOutput s t := by
  rcases execDecomp_cases s with ⟨-, he⟩ | ⟨-, -, he⟩ | ⟨-, -, -, he⟩ | ⟨-, -, bs, -, ⟨x, hx, he⟩ | ⟨out, ho, he⟩⟩ <;>
    rw [he] at h <;> cases h
  · exact .inl ⟨_, by decide, rfl⟩
  · exact .inl ⟨_, by decide, rfl⟩
  · refine .inl ⟨x, ?_, rfl⟩
    rcases decodeSector_error _ _ _ _ _ hx with rfl | rfl <;> decide
  · exact .inr ⟨_, _, decodeSector_length _ _ _ _ _ ho, rfl⟩

theorem execRdfile_output {s t : State} (h : execRdfile s = .next t) : EndsWithOutput s t := by
  rcases execRdfile_cases s with ⟨x, hx, -, he⟩ | ⟨-, ⟨x, -, hx, he⟩ | ⟨out, -, -, he⟩ | ⟨out, -, hl, he⟩⟩ <;>
    rw [he] at h <;> cases h
  · have hne : ∀ x ∈ [Code.badArgument, .outputOverflow, .absent, .deleted], x ≠ .ok := by decide
    exact .inl ⟨x, hne x hx, rfl⟩
  · exact .inl ⟨x, (readCodes_sub x hx).1, rfl⟩
  · exact .inl ⟨_, by decide, rfl⟩
  · exact .inr ⟨_, out, hl, rfl⟩

theorem exec_output {i : Instr} {s t : State} (hi : writesObuf i = true) (hs : s.cfg.wellFormed = true)
    (h : exec i s = .next t) : EndsWithOutput s t := by
  cases i with
  | decrypt => exact cipherCommand_output (fun c ws => decryptRun_length ws c) hs h
  | encrypt => exact cipherCommand_output (fun c ws => encryptRun_length ws c) hs h
  | decomp => exact execDecomp_output h
  | rdfile => exact execRdfile_output h
  | ctrd | hashOffset | hashNameA | hashNameB | hashFileKey | hash3 | fkey => cases hi

/-- A buffer made of bytes from offset 0 up has a value at exactly their offsets. -/
theorem Memory.isSome_read_ofBytes (bs : Bytes) (a : Nat) :
    ((Memory.ofBytes 0 bs).read a).isSome = decide (a < bs.length) := by
  rw [Memory.read_ofBytes, if_pos (Nat.zero_le a), Nat.sub_zero, Bool.eq_iff_iff, decide_eq_true_iff, Option.isSome_iff_ne_none, ne_eq,
    List.getElem?_eq_none_iff, not_le]

/-- Settles O27: after OK the output has RES0 bytes, after an error OBUF is empty. -/
theorem outputCommandsFrame : Obligations.OutputCommandsFrame := by
  intro i hi s t hs h
  have hmem : ∀ i ∈ [Instr.decrypt, .encrypt, .decomp, .rdfile], writesObuf i = true := by decide
  rcases exec_output (hmem i hi) hs h with ⟨k, hk, rfl⟩ | ⟨len, out, hlen, rfl⟩
  · exact ⟨rfl, fun hok => absurd hok hk, fun _ a => rfl⟩
  · refine ⟨rfl, fun _ a => ?_, fun herr => absurd rfl herr⟩
    rw [State.completeOutput_obuf, State.completeOutput_res0, Memory.isSome_read_ofBytes, hlen]

/-! ### Faults -/

/-- The outcome `o` is the fault of an unwritten byte exactly when `p` holds, and never a refusal. -/
def FaultsIff (o : Result) (p : Prop) : Prop := (o = .fault .unwrittenInput ↔ p) ∧ ∀ r, o ≠ .refused r

theorem faultsIff_next {o : Result} {t : State} {p : Prop} (h : o = .next t) (hp : ¬ p) : FaultsIff o p :=
  ⟨⟨fun he => (by rw [h] at he; cases he), fun hp' => absurd hp' hp⟩, fun r he => (by rw [h] at he; cases he)⟩

theorem faultsIff_fault {o : Result} {p : Prop} (h : o = .fault .unwrittenInput) (hp : p) : FaultsIff o p :=
  ⟨⟨fun _ => hp, fun _ => h⟩, fun r he => (by rw [h] at he; cases he)⟩

theorem input_eq_none (s : State) (n : Nat) : s.input n = none ↔ ∃ a < n, s.ibuf.read a = none := by
  simp [State.input, Memory.readBytes_eq_none]

theorem written_of_input {s : State} {n : Nat} {bs : Bytes} (h : s.input n = some bs) :
    ¬ ∃ a < n, s.ibuf.read a = none := by
  rw [← input_eq_none, h]
  exact Option.some_ne_none bs

theorem withPath_faultsIff (s : State) (k : Bytes → State) :
    FaultsIff (s.withPath k) (s.arg0.toNat ≤ s.cfg.bufBytes ∧ ∃ a < s.arg0.toNat, s.ibuf.read a = none) := by
  rcases withPath_cases s k with ⟨hlong, he⟩ | ⟨-, p, hp, he⟩ | ⟨hle, hn, he⟩
  · exact faultsIff_next he fun ⟨hle, _⟩ => by omega
  · exact faultsIff_next he fun ⟨_, hn⟩ => written_of_input hp hn
  · exact faultsIff_fault he ⟨hle, (input_eq_none _ _).mp hn⟩

theorem cipherCommand_faultsIff (run : Cipher → List Word → Cipher × List Word) (s : State) :
    FaultsIff (cipherCommand run s)
      (4 * s.arg0.toNat ≤ s.cfg.bufBytes ∧ ∃ a < 4 * s.arg0.toNat, s.ibuf.read a = none) := by
  rcases cipherCommand_cases run s with ⟨hlong, he⟩ | ⟨-, bs, hb, he⟩ | ⟨hle, hn, he⟩
  · exact faultsIff_next he fun ⟨hle, _⟩ => by omega
  · exact faultsIff_next he fun ⟨_, hn⟩ => written_of_input hb hn
  · exact faultsIff_fault he ⟨hle, (input_eq_none _ _).mp hn⟩

theorem execDecomp_faultsIff (s : State) :
    FaultsIff (execDecomp s) ((s.arg0.toNat ≤ s.cfg.bufBytes ∧ s.arg3.toNat ≤ s.cfg.bufBytes) ∧
      ∃ a < s.arg0.toNat, s.ibuf.read a = none) := by
  rcases execDecomp_cases s with ⟨h0, he⟩ | ⟨-, h3, he⟩ | ⟨h0, h3, hn, he⟩ | ⟨-, -, bs, hb, ⟨x, -, he⟩ | ⟨out, -, he⟩⟩
  · exact faultsIff_next he fun ⟨⟨_, _⟩, _⟩ => by omega
  · exact faultsIff_next he fun ⟨⟨_, _⟩, _⟩ => by omega
  · exact faultsIff_fault he ⟨⟨h0, h3⟩, (input_eq_none _ _).mp hn⟩
  · exact faultsIff_next he fun ⟨_, hn⟩ => written_of_input hb hn
  · exact faultsIff_next he fun ⟨_, hn⟩ => written_of_input hb hn

/-- CTRD and RDFILE take no byte of IBUF: they always complete. -/
theorem execCtrd_completes (s : State) : ∃ t, execCtrd s = .next t := by
  unfold execCtrd
  split <;> exact ⟨_, rfl⟩

theorem execRdfile_completes (s : State) : ∃ t, execRdfile s = .next t := by
  rcases execRdfile_cases s with ⟨x, -, -, he⟩ | ⟨-, ⟨x, -, -, he⟩ | ⟨out, -, -, he⟩ | ⟨out, -, -, he⟩⟩ <;>
    exact ⟨_, he⟩

/-- The operand checks of every command but DECOMP are about its length alone. -/
theorem inputAllowed_iff {i : Instr} (h : i ≠ .decomp) (s : State) : inputAllowed i s ↔ inputLength i s ≤ s.cfg.bufBytes :=
  ⟨And.left, fun hle => ⟨hle, fun he => absurd he h⟩⟩

theorem inputAllowed_decomp (s : State) :
    inputAllowed .decomp s ↔ s.arg0.toNat ≤ s.cfg.bufBytes ∧ s.arg3.toNat ≤ s.cfg.bufBytes :=
  and_congr_right fun _ => ⟨fun h => h rfl, fun h _ => h⟩

theorem exec_faultsIff (i : Instr) (s : State) :
    FaultsIff (exec i s) (inputAllowed i s ∧ ∃ a < inputLength i s, s.ibuf.read a = none) := by
  by_cases hd : i = .decomp
  · subst hd
    rw [inputAllowed_decomp]
    exact execDecomp_faultsIff s
  rw [inputAllowed_iff hd]
  cases i with
  | ctrd =>
    obtain ⟨t, ht⟩ := execCtrd_completes s
    exact faultsIff_next ht fun ⟨_, _, hlt, _⟩ => absurd hlt (Nat.not_lt_zero _)
  | rdfile =>
    obtain ⟨t, ht⟩ := execRdfile_completes s
    exact faultsIff_next ht fun ⟨_, _, hlt, _⟩ => absurd hlt (Nat.not_lt_zero _)
  | hashOffset | hashNameA | hashNameB | hashFileKey | hash3 | fkey => exact withPath_faultsIff s _
  | decrypt | encrypt => exact cipherCommand_faultsIff _ s
  | decomp => exact absurd rfl hd

/-- Settles O30: instruction by instruction, in `exec_faultsIff`. -/
theorem faultsExactlyOnUnwrittenInput : Obligations.FaultsExactlyOnUnwrittenInput := exec_faultsIff

end Sys2Proof.Machine
end

section
/-! PROOFS. The internal units never matter (10_state.md R36, R37): no instruction, no host access and no event reads them. -/

namespace Sys2Proof.Machine

/-- The state with other contents of the units. -/
def State.withUnits (s : State) (u : Units) : State := { s with units := u }

@[simp] theorem State.withUnits_cmd (s : State) (u : Units) : (s.withUnits u).cmd = s.cmd := rfl
@[simp] theorem State.withUnits_status (s : State) (u : Units) : (s.withUnits u).status = s.status := rfl
@[simp] theorem State.withUnits_cfg (s : State) (u : Units) : (s.withUnits u).cfg = s.cfg := rfl
@[simp] theorem State.withUnits_sched (s : State) (u : Units) : (s.withUnits u).sched = s.sched := rfl

/-- A completion overwrites the units, and every run starts from seeds of its own, so a command gives one state whatever they hold. -/
theorem exec_withUnits (i : Instr) (s : State) (u : Units) : exec i (s.withUnits u) = exec i s := by
  cases i with
  | ctrd => rfl
  | hashOffset | hashNameA | hashNameB | hashFileKey => exact hashCommand_eq _ (s.withUnits u)
  | hash3 => exact execHash3_eq (s.withUnits u)
  | fkey => exact execFkey_eq (s.withUnits u)
  | decrypt | encrypt => rfl
  | decomp => rfl
  | rdfile => rfl

theorem coreStep_withUnits (s : State) (u : Units) : coreStep (s.withUnits u) = coreStep s := by
  simp only [coreStep, State.withUnits_cmd]
  split
  · exact exec_withUnits _ s u
  · rfl

/-! ### A host access passes the units through -/

theorem withUnits_unlessBusy (s t : State) (u : Units) :
    (s.unlessBusy t).withUnits u = (s.withUnits u).unlessBusy (t.withUnits u) := by
  cases hb : s.status.busy with
  | true => rw [State.unlessBusy_busy s t hb, State.unlessBusy_busy (s.withUnits u) _ hb]; rfl
  | false => rw [State.unlessBusy_idle s t hb, State.unlessBusy_idle (s.withUnits u) _ hb]

theorem withUnits_writeRegister (s : State) (u : Units) (off : Nat) (v : Word) :
    (s.writeRegister off v).withUnits u = (s.withUnits u).writeRegister off v := by
  unfold State.writeRegister
  split
  case h_2 | h_3 | h_10 => rfl
  all_goals exact withUnits_unlessBusy s _ u

theorem withUnits_busWrite (s : State) (u : Units) (off : Nat) (w : Width) (v : Word) :
    (s.busWrite off w v).withUnits u = (s.withUnits u).busWrite off w v := by
  simp only [State.busWrite, State.withUnits_cfg]
  split
  · rw [← withUnits_writeRegister]; rfl
  · exact congrArg (fun t : State => { t with reply := .done }) (withUnits_unlessBusy s _ u)
  all_goals rfl

theorem withUnits_busRead (s : State) (u : Units) (off : Nat) (w : Width) :
    (s.busRead off w).withUnits u = (s.withUnits u).busRead off w := by
  simp only [State.busRead, State.withUnits_cfg]
  split <;> rfl

/-! ### A step -/

/-- Two outcomes that differ in the units at most. -/
inductive SameButUnits : Result → Result → Prop
  | same (o : Result) : SameButUnits o o
  | next (t : State) (u : Units) : SameButUnits (.next t) (.next (t.withUnits u))

theorem SameButUnits.of_eq {o o' : Result} (h : o' = o) : SameButUnits o o' := h ▸ .same o

theorem SameButUnits.of_next {t t' : State} {u : Units} (h : t.withUnits u = t') : SameButUnits (.next t) (.next t') :=
  h ▸ .next t u

theorem SameButUnits.ite {c : Prop} [Decidable c] {o p o' p' : Result} (h : SameButUnits o o') (h' : SameButUnits p p') :
    SameButUnits (if c then o else p) (if c then o' else p') := by
  split
  · exact h
  · exact h'

theorem coreTurn_sameButUnits (s : State) (u : Units) : SameButUnits (coreTurn s) (coreTurn (s.withUnits u)) :=
  .ite (.of_eq (coreStep_withUnits s u)) (.next s u)

theorem pollTurn_sameButUnits (q : List Event) (s : State) (u : Units) :
    SameButUnits (pollTurn q s) (pollTurn q (s.withUnits u)) :=
  .ite (.of_eq (coreStep_withUnits s u)) (.of_next (withUnits_busRead { s with sched := q } u _ _))

theorem attachTurn_sameButUnits (src : Bytes) (fails : List (List (Nat × Nat))) (s : State) (u : Units) :
    SameButUnits (attachTurn src fails s) (attachTurn src fails (s.withUnits u)) :=
  .ite (.same _) (.ite (.same _) (.next { s with src := src, srcDraws := fails } u))

/-- Any other contents of the units change no event's outcome but themselves. -/
theorem eventTurn_sameButUnits (e : Event) (q : List Event) (s : State) (u : Units) :
    SameButUnits (eventTurn e q s) (eventTurn e q (s.withUnits u)) := by
  cases e with
  | read off w => exact .of_next (withUnits_busRead { s with sched := q } u off w)
  | write off w v => exact .of_next (withUnits_busWrite { s with sched := q } u off w v)
  | writeBack off w => exact .of_next (withUnits_busWrite { s with sched := q } u off w s.lastRead)
  | poll => exact pollTurn_sameButUnits q s u
  | tick => exact .next { s with sched := q } u
  | complete => exact coreTurn_sameButUnits { s with sched := q } u
  | reset => exact .same _
  | attach src fails => exact attachTurn_sameButUnits src fails { s with sched := q } u

theorem step_sameButUnits (s : State) (u : Units) : SameButUnits (step s) (step (s.withUnits u)) := by
  simp only [step, turn, State.withUnits_sched]
  split
  · exact coreTurn_sameButUnits s u
  · exact eventTurn_sameButUnits _ _ s u

/-- A step in which a command ends leaves the units cleared. -/
theorem units_of_step_endsCommand {s t : State} (hb : s.status.busy = true) (h : step s = .next t)
    (ht : t.status.busy = false) : t.units = Units.cleared := by
  obtain ⟨q, hc⟩ | ⟨q, -, rfl⟩ := step_endsCommand hb h ht
  · obtain ⟨k, -, hu⟩ := coreStep_completes hc
    exact hu
  · rfl

/-- Settles O31: the two outcomes of a step differ in the units at most, which completion and reset clear. -/
theorem unitsNeverMatter : Obligations.UnitsNeverMatter := by
  refine ⟨fun s u => ?_, exec_withUnits, fun s t hb h ht => units_of_step_endsCommand hb h ht⟩
  have h := step_sameButUnits s u
  rw [State.withUnits] at h
  generalize step s = o, step { s with units := u } = o' at h ⊢
  cases h with
  | same => cases o <;> rfl
  | next t u' => rfl

end Sys2Proof.Machine
end

section
/-! PROOFS. The host's address space and the byte source: bus errors, the CT window, writes of IBUF, the operands' lock, attachment and
`SrcRead` (20_memory.md R61 to R70). -/

namespace Sys2Proof.Machine

open Sys2Proof.Claims

/-! ### The map of the bus -/

theorem readable_of_writable {cfg : Params} {off : Nat} {w : Width} (h : writable cfg off w) : readable cfg off w := by
  obtain ⟨hal, hreg | hibuf⟩ := h
  · exact ⟨hal, .inl hreg⟩
  · exact ⟨hal, .inr (.inr (.inl hibuf))⟩

/-- The map (20_memory.md R61, R63): an access has no place, or one in the CT window or OBUF, or one among the registers or in IBUF. -/
theorem placeOf_cases (cfg : Params) (off : Nat) (w : Width) :
    (¬ readable cfg off w ∧ placeOf cfg off w = none) ∨
    (readable cfg off w ∧ ¬ writable cfg off w ∧ ∃ i, placeOf cfg off w = some (.ctEntry i) ∨ placeOf cfg off w = some (.obuf i)) ∨
    (writable cfg off w ∧ ∃ i, placeOf cfg off w = some (.register i) ∨ placeOf cfg off w = some (.ibuf i)) := by
  have hword : w = .word → w.bytes = 4 := fun h => h ▸ rfl
  have hpos : 0 < w.bytes := by cases w <;> decide
  unfold placeOf
  split_ifs with hal hreg hw hct hw hibuf hobuf
  · exact .inl ⟨fun h => hal h.1, rfl⟩
  · have hend : off + 4 ≤ 0x100 := by rw [hword hw] at hal; omega
    exact .inr (.inr ⟨⟨not_not.mp hal, .inl ⟨hw, hend⟩⟩, off, .inl rfl⟩)
  · refine .inl ⟨?_, rfl⟩
    simp only [readable, hw, false_and, false_or]
    omega
  · have hend : off + 4 ≤ 0x2400 := by rw [hword hw] at hal; omega
    refine .inr (.inl ⟨⟨not_not.mp hal, .inr (.inl ⟨hw, hct.1, hend⟩)⟩, ?_, _, .inl rfl⟩)
    rw [writable]
    omega
  · refine .inl ⟨?_, rfl⟩
    simp only [readable, hw, false_and, false_or]
    omega
  · exact .inr (.inr ⟨⟨not_not.mp hal, .inr hibuf⟩, _, .inr rfl⟩)
  · refine .inr (.inl ⟨⟨not_not.mp hal, .inr (.inr (.inr hobuf))⟩, ?_, _, .inr rfl⟩)
    rw [writable]
    omega
  · refine .inl ⟨?_, rfl⟩
    rw [readable]
    omega

theorem placeOf_readable {cfg : Params} {off : Nat} {w : Width} (h : readable cfg off w) : ∃ p, placeOf cfg off w = some p := by
  obtain ⟨hn, -⟩ | ⟨-, -, i, hp | hp⟩ | ⟨-, i, hp | hp⟩ := placeOf_cases cfg off w
  · exact absurd h hn
  all_goals exact ⟨_, hp⟩

theorem placeOf_not_readable {cfg : Params} {off : Nat} {w : Width} (h : ¬ readable cfg off w) : placeOf cfg off w = none := by
  obtain ⟨-, hp⟩ | ⟨hr, -⟩ | ⟨hw, -⟩ := placeOf_cases cfg off w
  · exact hp
  · exact absurd hr h
  · exact absurd (readable_of_writable hw) h

theorem busRead_not_readable {s : State} {off : Nat} {w : Width} (h : ¬ readable s.cfg off w) :
    s.busRead off w = { s with reply := .busError } := by
  simp only [State.busRead, placeOf_not_readable h]

theorem busWrite_writable {s : State} {off : Nat} {w : Width} (h : writable s.cfg off w) (v : Word) :
    (s.busWrite off w v).reply = .done := by
  obtain ⟨hr, -⟩ | ⟨-, hn, -⟩ | ⟨-, i, hp | hp⟩ := placeOf_cases s.cfg off w
  · exact absurd (readable_of_writable h) hr
  · exact absurd h hn
  all_goals simp only [State.busWrite, hp]

theorem busWrite_not_writable {s : State} {off : Nat} {w : Width} (h : ¬ writable s.cfg off w) (v : Word) :
    s.busWrite off w v = { s with reply := .busError } := by
  obtain ⟨-, hp⟩ | ⟨-, -, i, hp | hp⟩ | ⟨hw, -⟩ := placeOf_cases s.cfg off w
  case inr.inr => exact absurd hw h
  all_goals simp only [State.busWrite, hp]

/-- Settles O9: the map decides between the access and the bus error, which sets the reply alone. -/
theorem busErrorsExactly : Obligations.BusErrorsExactly := by
  refine ⟨fun s off w q h => ⟨fun hr => ?_, fun hr => ?_⟩, fun s off w v q h => ⟨fun hw => ?_, fun hw => ?_⟩⟩
  · obtain ⟨p, hp⟩ := placeOf_readable hr
    exact ⟨_, _, by rw [step_read s off w q h, busRead_some { s with sched := q } off w p hp]⟩
  · rw [step_read s off w q h, busRead_not_readable (s := { s with sched := q }) hr]
  · exact ⟨_, step_write s off w v q h, busWrite_writable (s := { s with sched := q }) hw v⟩
  · rw [step_write s off w v q h, busWrite_not_writable (s := { s with sched := q }) hw v]

/-- Settles O10: the place is the entry's. -/
theorem ctWindowReadsTheRom : Obligations.CtWindowReadsTheRom := by
  intro s i q hi h
  exact ⟨_, by
    rw [step_read s _ .word q h, busRead_some { s with sched := q } _ .word _ (placeOf_ctEntry s.cfg i hi)]
    rfl⟩

/-! ### Writes of IBUF -/

theorem getElem?_leBytes (v : Word) {n k : Nat} (h : k < n) : (leBytes v n)[k]? = some (v.extractLsb' (8 * k) 8) := by
  simp [leBytes, byteOfWord, h]

/-- A write of IBUF by an idle core, of any width (20_memory.md R67). -/
theorem busWrite_ibuf_idle {s : State} {i : Nat} {w : Width} (hb : s.status.busy = false) (h4 : i % w.bytes = 0)
    (hi : i + w.bytes ≤ s.cfg.bufBytes) (v : Word) :
    s.busWrite (0x10000 + i) w v = { s with ibuf := s.ibuf.writeBytes i (leBytes v w.bytes), reply := .done } := by
  rw [busWrite_ibuf s i w v (buffer_aligned 1 h4) hi, State.unlessBusy_idle s _ hb]

/-- A one-byte write by an idle core, whatever IBUF and the reply hold by then. -/
theorem busWrite_ibuf_byte {s : State} {i : Nat} (hb : s.status.busy = false) (hi : i < s.cfg.bufBytes) (m : Memory) (r : BusReply)
    (v : Word) :
    ({ s with ibuf := m, reply := r }).busWrite (0x10000 + i) .byte v =
      { s with ibuf := m.write i (byteOfWord v 0), reply := .done } :=
  busWrite_ibuf_idle (s := { s with ibuf := m, reply := r }) (w := .byte) hb (Nat.mod_one i) hi v

/-- Shifting a word down brings its byte `k` to the front. -/
theorem byteOfWord_shiftRight (v : Word) (k : Nat) : byteOfWord (v >>> (8 * k)) 0 = byteOfWord v k := by
  apply BitVec.eq_of_getLsbD_eq
  intro j hj
  simp [byteOfWord]

/-- Settles O14: the bytes land one by one from the offset up, whether one access or four carry them. -/
theorem ibufWritesSetTheirBytes : Obligations.IbufWritesSetTheirBytes := by
  refine ⟨fun s i w v q hb h h4 hi => ?_, fun s i v hb h4 hi => ⟨?_, ?_⟩⟩
  · refine ⟨s.ibuf.writeBytes i (leBytes v w.bytes), ?_, fun a => ?_⟩
    · rw [step_write s _ w v q h, busWrite_ibuf_idle (s := { s with sched := q }) hb h4 hi]
    · rw [Memory.read_writeBytes, leBytes_length]
      split
      case isTrue ha => exact getElem?_leBytes v (by omega)
      case isFalse => rfl
  · have hfirst := busWrite_ibuf_byte hb (i := i) (by omega) s.ibuf s.reply v
    rw [busWrite_ibuf_idle (w := .word) hb h4 hi, hfirst, busWrite_ibuf_byte hb (by omega), busWrite_ibuf_byte hb (by omega),
      busWrite_ibuf_byte hb (by omega), byteOfWord_shiftRight v 1, byteOfWord_shiftRight v 2, byteOfWord_shiftRight v 3]
    rfl
  · rw [busWrite_ibuf_idle (w := .word) hb h4 hi]
    exact Memory.readBytes_writeBytes s.ibuf i (leBytes v 4)

/-! ### The operands of the command in progress -/

/-- The busy lock (10_state.md R31): a host write that finds a command in progress reaches STATUS and CTRL at most. -/
theorem Writes.frame_busy {s t : State} (h : Writes s t) (hb : s.status.busy = true) :
    ∃ st c r, t = { s with status := st, ctrl := c, reply := r } := by
  cases h with
  | busError | ignored | dropped | status | ctrl => exact ⟨_, _, _, rfl⟩
  | accepted _ hi | args _ _ _ _ _ _ hi | ibuf _ _ hi => rw [hb] at hi; cases hi

/-- A step during a command that does not end it reaches STATUS, CTRL and the model's own fields at most. -/
theorem step_frame_busy {s t : State} (hb : s.status.busy = true) (h : step s = .next t) (ht : t.status.busy = true) :
    ∃ st c q r l d, t = { s with status := st, ctrl := c, sched := q, reply := r, lastRead := l, draws := d } := by
  cases step_steps s t h with
  | core q t _ hc =>
    obtain ⟨k, hk, -⟩ := coreStep_completes hc
    rw [hk] at ht
    cases ht
  | idle q => exact ⟨_, _, q, _, _, _, rfl⟩
  | read q off w =>
    obtain ⟨r, l, d, he⟩ := busRead_frame off w { s with sched := q }
    exact ⟨_, _, q, r, l, d, he⟩
  | write q t hw =>
    obtain ⟨st, c, r, rfl⟩ := hw.frame_busy hb
    exact ⟨st, c, q, r, _, _, rfl⟩
  | reset => cases ht
  | attach _ _ _ hi => rw [hb] at hi; cases hi

/-- Settles O21: no operand is among the fields that a step during the command reaches. -/
theorem operandsAreLockedWhileBusy : Obligations.OperandsAreLockedWhileBusy := by
  intro s t hb h ht
  obtain ⟨st, c, q, r, l, d, rfl⟩ := step_frame_busy hb h ht
  exact ⟨rfl, rfl, rfl, rfl, rfl, rfl, rfl, rfl, rfl, rfl, rfl, rfl⟩

/-! ### Refusals, attachment and events that start nothing -/

theorem coreStep_ne_refused (s : State) (r : Refusal) : coreStep s ≠ .refused r := by
  unfold coreStep
  split
  · exact (exec_faultsIff _ s).2 r
  · exact nofun

theorem coreTurn_ne_refused (s : State) (r : Refusal) : coreTurn s ≠ .refused r := by
  unfold coreTurn
  split
  · exact coreStep_ne_refused s r
  · exact nofun

theorem pollTurn_ne_refused (q : List Event) (s : State) (r : Refusal) : pollTurn q s ≠ .refused r := by
  unfold pollTurn
  split
  · exact coreStep_ne_refused s r
  · exact nofun

theorem attachTurn_refused_iff (src : Bytes) (fails : List (List (Nat × Nat))) (s : State) (r : Refusal) :
    attachTurn src fails s = .refused r ↔
      (s.status.busy = true ∧ r = .sourceChangedInCommand) ∨
      (s.status.busy = false ∧ 2 ^ 32 < src.length ∧ r = .sourceTooLong) := by
  unfold attachTurn
  cases s.status.busy with
  | true => simp [eq_comm]
  | false =>
    by_cases hl : 2 ^ 32 < src.length
    · simp [hl, eq_comm, -Nat.reducePow]
    · simp [hl, -Nat.reducePow]

theorem step_attach {s : State} {src : Bytes} {fails : List (List (Nat × Nat))} {q : List Event}
    (h : s.sched = .attach src fails :: q) : step s = attachTurn src fails { s with sched := q } := by
  simp only [step, turn, h, eventTurn]

/-- Only the attachment of a byte source can be refused. -/
theorem step_refused {s : State} {r : Refusal} (h : step s = .refused r) : ∃ src fails q, s.sched = .attach src fails :: q := by
  unfold step turn at h
  split at h
  · exact absurd h (coreTurn_ne_refused s r)
  · rename_i e q hs
    cases e with
    | attach src fails => exact ⟨src, fails, q, hs⟩
    | poll => exact absurd h (pollTurn_ne_refused q s r)
    | complete => exact absurd h (coreTurn_ne_refused _ r)
    | read | write | writeBack | tick | reset => cases h

theorem coreTurn_idle {s : State} (hb : s.status.busy = false) : coreTurn s = .next s := by simp [coreTurn, hb]

/-- Settles O22: an attachment is the one event that can be refused; on an idle core the core's turn does nothing. -/
theorem sourceAttachmentAndIdleEvents : Obligations.SourceAttachmentAndIdleEvents := by
  refine ⟨fun s r => ⟨fun h => ?_, ?_⟩, fun s src fails q h hb hl => ?_, fun s q h => ?_, fun s q h hb => ?_, fun s h hb => ?_⟩
  · obtain ⟨src, fails, q, hs⟩ := step_refused h
    rw [step_attach hs, attachTurn_refused_iff] at h
    exact ⟨src, fails, q, hs, h⟩
  · rintro ⟨src, fails, q, hs, h⟩
    rw [step_attach hs, attachTurn_refused_iff]
    exact h
  · rw [step_attach h, attachTurn, if_neg (by simp [hb]), if_neg (by omega)]
  · simp only [step, turn, h, eventTurn]
  · simp only [step, turn, h, eventTurn]
    exact coreTurn_idle (s := { s with sched := q }) hb
  · simp only [step, turn, h]
    exact coreTurn_idle hb

/-! ### `SrcRead` -/

/-- Settles O52: the checks of `srcRead` in their order; the bytes of the range are those a `drop` and a `take` leave. -/
theorem srcReadCases : Obligations.SrcReadCases := by
  intro src fails a n
  refine ⟨rfl, fun hn hlong => ?_, fun hn hmem => ?_, fun hn hin hmem => ?_⟩
  · rw [srcRead, if_neg hn.ne', if_pos hlong]
  · rw [srcRead, if_neg hn.ne', if_pos hmem, ite_self]
  · refine ⟨(src.drop a).take n, ?_, by rw [List.length_take, List.length_drop]; omega, fun k hk => ?_⟩
    · rw [srcRead, if_neg hn.ne', if_neg (by omega), if_neg hmem]
    · rw [List.getElem?_take_of_lt hk, List.getElem?_drop]

end Sys2Proof.Machine
end

section
/-! PROOFS. The encoding and the forms of a host program: the decoder's four outcomes, the words of the mnemonics, and `mvres` and
`call` run (30_encoding.md R90 to R93, R106, R110 to R112). -/

namespace Sys2Proof.Machine

open Sys2Proof.Claims

/-! ### The fields of a word and of an instruction -/

/-- The three fields are the whole word (30_encoding.md R90). -/
theorem wordOf_fieldsOf (v : Word) : wordOf (fieldsOf v) = v := by
  apply BitVec.eq_of_getLsbD_eq
  intro i hi
  simp only [wordOf, fieldsOf, BitVec.getLsbD_append, BitVec.getLsbD_extractLsb']
  by_cases hopc : i < 8
  · simp [hopc]
  · by_cases hkind : i - 8 < 2
    · simp [hopc, hkind, show 8 + (i - 8) = i by omega]
    · simp [hopc, hkind, show 10 + (i - 8 - 2) = i by omega, show i - 8 - 2 < 22 by omega]

theorem opcField_known (i : Instr) : 1 ≤ (opcField i).toNat ∧ (opcField i).toNat ≤ 8 := by
  cases i <;> decide

theorem hashInstr_fields (kind : BitVec 2) : opcField (hashInstr kind) = 2 ∧ kindField (hashInstr kind) = kind := by
  revert kind
  decide

theorem opcField_instrOf {opc : BitVec 8} {op : Opcode} (h : opcodeOf opc = some op) (kind : BitVec 2) :
    opcField (instrOf op kind) = opc := by
  unfold opcodeOf at h
  split at h <;> cases h
  case h_2 h2 => exact (hashInstr_fields kind).1.trans (BitVec.eq_of_toNat_eq h2.symm)
  all_goals exact BitVec.eq_of_toNat_eq (Eq.symm ‹_›)

/-- Only HASH keeps its KIND field in the instruction (30_encoding.md R90, R93). -/
theorem kindField_instrOf {op : Opcode} {kind : BitVec 2} (h : op = .hash ∨ kind = 0) : kindField (instrOf op kind) = kind := by
  obtain rfl | rfl := h
  · exact (hashInstr_fields kind).2
  · cases op <;> rfl

theorem known_of_opcodeOf {opc : BitVec 8} {op : Opcode} (h : opcodeOf opc = some op) : 1 ≤ opc.toNat ∧ opc.toNat ≤ 8 :=
  opcField_instrOf h 0 ▸ opcField_known (instrOf op 0)

theorem opcodeOf_hash_iff {opc : BitVec 8} {op : Opcode} (h : opcodeOf opc = some op) : op = .hash ↔ opc = 2 := by
  constructor
  · rintro rfl
    exact opcodeOf_hash h
  · rintro rfl
    exact (Option.some.inj h).symm

theorem unknown_of_opcodeOf {opc : BitVec 8} (h : opcodeOf opc = none) : opc.toNat = 0 ∨ 9 ≤ opc.toNat := by
  by_contra hn
  obtain ⟨h1, h8⟩ : 1 ≤ opc.toNat ∧ opc.toNat ≤ 8 := by omega
  unfold opcodeOf at h
  interval_cases opc.toNat <;> cases h

/-! ### The decoder -/

/-- The decoder's four outcomes (30_encoding.md R91): each check in its order, and past them all the one instruction with these fields. -/
theorem decodeFields_cases (f : CmdFields) :
    (f.rsvd ≠ 0 ∧ decodeFields f = .error .reservedBits) ∨
    (f.rsvd = 0 ∧ (f.opc.toNat = 0 ∨ 9 ≤ f.opc.toNat) ∧ decodeFields f = .error .unknownOpcode) ∨
    (f.rsvd = 0 ∧ (1 ≤ f.opc.toNat ∧ f.opc.toNat ≤ 8) ∧ (f.opc ≠ 2 ∧ f.kind ≠ 0) ∧ decodeFields f = .error .kindNotZero) ∨
    (f.rsvd = 0 ∧ (1 ≤ f.opc.toNat ∧ f.opc.toNat ≤ 8) ∧ (f.opc = 2 ∨ f.kind = 0) ∧
      ∃ i, decodeFields f = .ok i ∧ instrFields i = f) := by
  unfold decodeFields
  by_cases hr : f.rsvd = 0
  · rw [if_neg (not_not.mpr hr)]
    rcases ho : opcodeOf f.opc with _ | op
    · exact .inr (.inl ⟨hr, unknown_of_opcodeOf ho, rfl⟩)
    · have hknown := known_of_opcodeOf ho
      have hhash := opcodeOf_hash_iff ho
      by_cases hk : op ≠ .hash ∧ f.kind ≠ 0
      · exact .inr (.inr (.inl ⟨hr, hknown, ⟨fun h => hk.1 (hhash.mpr h), hk.2⟩, if_pos hk⟩))
      · have hkind : op = .hash ∨ f.kind = 0 := by tauto
        refine .inr (.inr (.inr ⟨hr, hknown, hkind.imp_left hhash.mp, _, if_neg hk, ?_⟩))
        rw [instrFields, opcField_instrOf ho, kindField_instrOf hkind, ← hr]
  · exact .inl ⟨hr, if_pos hr⟩

/-- An instruction is decoded from its own fields only. -/
theorem instrFields_of_decodeFields {f : CmdFields} {i : Instr} (h : decodeFields f = .ok i) : instrFields i = f := by
  obtain ⟨-, he⟩ | ⟨-, -, he⟩ | ⟨-, -, -, he⟩ | ⟨-, -, -, j, hj, hf⟩ := decodeFields_cases f
  case inr.inr.inr => rwa [Except.ok.inj (h.symm.trans hj)]
  all_goals cases h.symm.trans he

/-- Settles O2: an accepted word has the fields of its instruction, and a word is made of its fields. -/
theorem decodeIsTheInverseOfEncode : Obligations.DecodeIsTheInverseOfEncode := by
  intro v i
  constructor
  · intro h
    rw [encode, instrFields_of_decodeFields h, wordOf_fieldsOf]
  · rintro rfl
    exact decodeWord_encode i

/-- Each name exactly when its own check is the first to fail (30_encoding.md R91, R106). -/
theorem decodeFields_error_iff (f : CmdFields) :
    (decodeFields f = .error .reservedBits ↔ f.rsvd ≠ 0) ∧
    (decodeFields f = .error .unknownOpcode ↔ f.rsvd = 0 ∧ (f.opc.toNat = 0 ∨ 9 ≤ f.opc.toNat)) ∧
    (decodeFields f = .error .kindNotZero ↔
      f.rsvd = 0 ∧ 1 ≤ f.opc.toNat ∧ f.opc.toNat ≤ 8 ∧ f.opc ≠ 2 ∧ f.kind ≠ 0) ∧
    decodeFields f ≠ .error .truncated := by
  obtain ⟨hr, he⟩ | ⟨hr, hopc, he⟩ | ⟨hr, hopc, hkind, he⟩ | ⟨hr, hopc, hkind, i, he, -⟩ := decodeFields_cases f <;>
    simp only [he, ne_eq, Except.error.injEq, reduceCtorEq, true_iff, false_iff, not_false_eq_true, and_true]
  · tauto
  · exact ⟨not_not.mpr hr, ⟨hr, hopc⟩, by omega⟩
  · exact ⟨not_not.mpr hr, by omega, hr, hopc.1, hopc.2, hkind⟩
  · exact ⟨not_not.mpr hr, by omega, by tauto⟩

/-- Settles O3: the conditions are on the fields of the word. -/
theorem illegalWordsAreRejectedByName : Obligations.IllegalWordsAreRejectedByName :=
  fun v => decodeFields_error_iff (fieldsOf v)

/-- Settles O1: the listed words are the encodings. -/
theorem mnemonicsAreTheirWords : Obligations.MnemonicsAreTheirWords := by
  intro p hp
  have hword : p.2 = encode p.1 := by
    revert p
    decide
  rw [hword]
  exact ⟨rfl, decodeWord_encode p.1⟩

/-! ### The forms of a host program -/

theorem step_writeBack {s : State} {off : Nat} {w : Width} {q : List Event} (h : s.sched = .writeBack off w :: q) :
    step s = .next (({ s with sched := q }).busWrite off w s.lastRead) := by
  simp only [step, turn, h, eventTurn]

/-- The last poll of a `wait` is a read of STATUS (30_encoding.md R110). -/
theorem step_poll_idle {s : State} {q : List Event} (hb : s.status.busy = false) (h : s.sched = .poll :: q) :
    step s = .next (({ s with sched := q }).busRead 0x004 .word) := by
  simp only [step, turn, h, eventTurn, pollTurn, hb, Bool.false_eq_true, if_false]

/-- A command leaves the events to come alone. -/
theorem Ends.sched {i : Instr} {s t : State} (h : Ends i s t) : t.sched = s.sched := by
  cases h <;> rfl

theorem Writes.sched {s t : State} (h : Writes s t) : t.sched = s.sched := by
  cases h <;> rfl

/-- What an idle core's register read replies, the host holds for a write after it. -/
theorem busRead_register_idle {s : State} {off : Nat} (hb : s.status.busy = false) (hoff : off < 0x100) (h4 : off % 4 = 0) :
    s.busRead off .word = { s with
      reply := .value (s.readRegister off), lastRead := s.readRegister off, draws := s.draws + 4 } := by
  rw [busRead_some s off .word _ (placeOf_register s.cfg off hoff h4), valueAt_register (.inl hb), Width.bytes]

/-- A write of an operand register by an idle core is seen there and in no other register. -/
theorem readRegister_writeRegister_arg {s : State} (hb : s.status.busy = false) {m : Nat} (hm : m < 6) (v : Word) (off : Nat) :
    (s.writeRegister (0x010 + 4 * m) v).readRegister off = if off = 0x010 + 4 * m then v else s.readRegister off := by
  split_ifs with h
  · subst h
    interval_cases m <;> exact congrArg (State.readRegister · _) (State.unlessBusy_idle s _ hb)
  · interval_cases m <;>
    · refine (congrArg (State.readRegister · _) (State.unlessBusy_idle s _ hb)).trans ?_
      unfold State.readRegister
      split <;> trivial

/-- `mvres n, m` in its two steps (30_encoding.md R112). -/
theorem mvres_runs {s : State} {n m : Nat} {q : List Event} (hb : s.status.busy = false) (hn : n < 3) (hm : m < 6)
    (h : s.sched = mvres n m ++ q) :
    ∃ t t', step s = .next t ∧ step t = .next t' ∧ t'.sched = q ∧
      ∀ off, t'.readRegister off =
        if off = 0x010 + 4 * m then s.readRegister (0x040 + 4 * n) else s.readRegister off := by
  let t : State := { s with
    sched := .writeBack (0x010 + 4 * m) .word :: q, reply := .value (s.readRegister (0x040 + 4 * n)),
    lastRead := s.readRegister (0x040 + 4 * n), draws := s.draws + 4 }
  have hread : step s = .next t :=
    (step_read s _ .word _ h).trans
      (congrArg _ (busRead_register_idle (s := { s with sched := _ }) hb (by omega) (by omega)))
  refine ⟨t, _, hread, step_writeBack rfl, (busWrite_writes _ _ _ _).sched, fun off => ?_⟩
  rw [busWrite_register _ _ _ (by omega) (by omega)]
  exact readRegister_writeRegister_arg (s := { t with sched := q }) hb hm _ off

/-- The wait after a command ends with a read of the STATUS the command left (30_encoding.md R110, 10_state.md R33). -/
theorem wait_ends {i : Instr} {t u : State} {q : List Event} (h : t.sched = .poll :: q) (hu : exec i t = .next u) :
    ∃ v, step u = .next v ∧ v.sched = q ∧ v.reply = .value u.status.toWord ∧ v.status = u.status := by
  have hends := exec_ends i t u hu
  obtain ⟨k, hk, -⟩ := hends.completes
  have hb : u.status.busy = false := by rw [hk]; rfl
  exact ⟨_, (step_poll_idle hb (hends.sched.trans h)).trans
    (congrArg _ (busRead_register_idle (s := { u with sched := q }) hb (by decide) (by decide))), rfl, rfl, rfl⟩

/-- Settles O23: `mvres` is a read that holds its value for the write after it; `call` is an acceptance, the command it encodes,
and the wait for its end. -/
theorem hostFormsRun : Obligations.HostFormsRun := by
  refine ⟨fun s n m q hb hn hm h => mvres_runs hb hn hm h, fun s i q hb h => ?_⟩
  let t : State := { ({ s with sched := .poll :: q }).accept (encode i) with reply := .done }
  have hexec : step t = exec i t := by
    rw [step_poll (s := t) rfl rfl, coreStep_ok (s := t) (decodeWord_encode i)]
  exact ⟨t, step_write_idle hb h (.inl rfl) rfl, rfl, rfl, hexec, fun u hu => wait_ends rfl hu⟩

end Sys2Proof.Machine
end

section
/-! PROOFS. The CT ROM is what the generating procedure writes, and CTRD reads it (40_crypto_table.md R130 to R133). -/

namespace Sys2Proof.Machine

/-! ### The generating procedure -/

/-- Base by base, and in each base one slot in each of the five regions (40_crypto_table.md R131). -/
theorem ctGenerated_slots :
    ctGenerated.map Prod.fst = (List.range 256).flatMap fun b => (List.range 5).map fun k => b + 256 * k := by
  simp only [ctGenerated, ctBases_slots, Nat.zero_add]

theorem ctBases_length (seed base n : Nat) : (ctBases seed base n).2.length = n * 5 := by
  rw [← List.length_map (f := Prod.fst), ctBases_slots]
  simp

theorem ctGenerated_length : ctGenerated.length = 1280 := ctBases_length _ _ 256

/-- No slot of the ROM is left out: `i` is slot `i % 256` of region `i / 256`. -/
theorem mem_ctGenerated_slots {i : Nat} (hi : i < 1280) : i ∈ ctGenerated.map Prod.fst := by
  rw [ctGenerated_slots, List.mem_flatMap]
  refine ⟨i % 256, List.mem_range.mpr (Nat.mod_lt _ (by decide)), List.mem_map.mpr ⟨i / 256, List.mem_range.mpr ?_, ?_⟩⟩
  · omega
  · exact Nat.mod_add_div i 256

/-- The printed table against the procedure: the one fact about the table's data, so one run of the procedure. -/
theorem ctGenerated_values : ∀ p ∈ ctGenerated, p.2 = ctRom p.1 := by
  decide +kernel

/-- Settles O32: every slot is written, and every write is of the table's value. -/
theorem ctRomIsGenerated : Obligations.CtRomIsGenerated := by
  refine ⟨ctGenerated_length, fun i hi => ?_, by decide, by decide, by decide⟩
  obtain ⟨⟨slot, v⟩, hmem, rfl⟩ := List.mem_map.mp (mem_ctGenerated_slots hi)
  have hv : v = ctRom slot := ctGenerated_values _ hmem
  rwa [← hv]

/-! ### CTRD -/

theorem execCtrd_entry {s : State} (h : s.arg0.toNat < 1280) :
    execCtrd s = .next (({ s with res0 := ctRom s.arg0.toNat }).complete .ok) :=
  if_neg (Nat.not_le.mpr h)

theorem execCtrd_noEntry {s : State} (h : 1280 ≤ s.arg0.toNat) : execCtrd s = .next (s.complete .badArgument) :=
  if_pos h

/-- Settles O33: the two sides of the index check; CTRD leaves RES1 and RES2 as acceptance cleared them. -/
theorem ctrdReadsAnEntry : Obligations.CtrdReadsAnEntry := by
  refine fun s => ⟨fun h => ⟨_, execCtrd_entry h⟩, fun h => ⟨_, execCtrd_noEntry h⟩, fun v t h => ?_⟩
  exact (exec_ends .ctrd _ t h).res1_res2 (by decide)

end Sys2Proof.Machine
end

section
/-! PROOFS. The path hasher: its recurrence, base names, the path commands, and that the spelling of a path never matters
(41_hasher.md R151 to R159). -/

namespace Sys2Proof.Machine

open Sys2Proof.Claims

/-! ### The recurrence -/

/-- The hasher takes one more byte of the path, normalised. -/
theorem hasherRun_concat (kind : HashKind) (p : Bytes) (b : Byte) :
    hasherRun kind (p ++ [b]) = hasherFeed kind (hasherRun kind p) (normByte b) := by
  simp [hasherRun, normPath]

/-- Settles O34: a run over no byte is the seeds, and `hasherRun_concat` is the step. -/
theorem hashRecurrence : Obligations.HashRecurrence := fun k p b =>
  ⟨rfl, rfl, hasherRun_concat k p b, congrArg Hasher.seed1 (hasherRun_concat k p b)⟩

/-! ### Base names -/

theorem isSeparator_iff (b : Byte) : isSeparator b = true ↔ b = 0x2F ∨ b = 0x5C := by simp [isSeparator]

theorem isSeparator_false_iff (b : Byte) : isSeparator b = false ↔ b ≠ 0x2F ∧ b ≠ 0x5C := by simp [isSeparator]

/-- Read from its end, a path first gives all of a part without a separator. -/
theorem baseName_append {tail : Bytes} (dir : Bytes) (h : ∀ b ∈ tail, isSeparator b = false) :
    baseName (dir ++ tail) = baseName dir ++ tail := by
  have hrev : ∀ b ∈ tail.reverse, (!isSeparator b) = true := fun b hb => by simp [h b (List.mem_reverse.mp hb)]
  simp only [baseName, List.reverse_append, List.takeWhile_append_of_pos hrev, List.reverse_reverse]

/-- Nothing follows a separator that ends the path. -/
theorem baseName_concat_separator {sep : Byte} (dir : Bytes) (h : isSeparator sep = true) : baseName (dir ++ [sep]) = [] := by
  simp [baseName, h]

/-- Settles O38: a tail without a separator stays whole, after no directory or after one that a separator ends. -/
theorem baseNameFollowsTheLastSeparator : Obligations.BaseNameFollowsTheLastSeparator := by
  intro tail h
  have hno : ∀ b ∈ tail, isSeparator b = false := fun b hb => (isSeparator_false_iff b).mpr (h b hb)
  refine ⟨baseName_append [] hno, fun dir sep hsep => ?_⟩
  rw [List.append_cons, baseName_append _ hno, baseName_concat_separator dir ((isSeparator_iff sep).mpr hsep), List.nil_append]

/-! ### The path commands -/

/-- The four HASH instructions run one command, each for its kind (41_hasher.md R152). -/
theorem exec_hash {ik : Instr × HashKind} (h : ik ∈ [(Instr.hashOffset, HashKind.tableOffset), (.hashNameA, .nameA),
    (.hashNameB, .nameB), (.hashFileKey, .fileKey)]) (s : State) : exec ik.1 s = hashCommand ik.2 s := by
  simp only [List.mem_cons, List.not_mem_nil, or_false] at h
  rcases h with rfl | rfl | rfl | rfl <;> rfl

/-- ADJUSTED_KEY is bit 17 of the flags (30_encoding.md R100). -/
theorem effectiveKey_eq (baseKey filePos usize flags : Word) :
    effectiveKey baseKey filePos usize flags =
      if flags &&& 0x00020000 ≠ 0 then (baseKey + filePos) ^^^ usize else baseKey :=
  if_congr (hasBits_iff flags 0x00020000) rfl rfl

/-- A path command that is given too long a path fails and leaves OBUF alone (41_hasher.md R155). -/
theorem withPath_fails {s : State} (k : Bytes → State) (h : s.cfg.bufBytes < s.arg0.toNat) :
    fails (s.withPath k) s .badArgument := ⟨_, withPath_tooLong s k h⟩

/-- Settles O35: the two sides of the length check, for the one command behind the four instructions. -/
theorem hashCommandsWriteTheHash : Obligations.HashCommandsWriteTheHash := by
  intro s p ik hik
  rw [exec_hash hik, hashCommand_eq]
  exact ⟨fun hle hp => ⟨_, withPath_ok s _ p hle hp⟩, withPath_fails _⟩

/-- Settles O36: the two sides of the length check. -/
theorem hash3WritesThreeHashes : Obligations.Hash3WritesThreeHashes := by
  intro s p
  rw [show exec .hash3 s = execHash3 s from rfl, execHash3_eq]
  exact ⟨fun hle hp => ⟨_, withPath_ok s _ p hle hp⟩, withPath_fails _⟩

/-- Settles O37: the two sides of the length check, with the effective key written out. -/
theorem fkeyWritesTheEffectiveKey : Obligations.FkeyWritesTheEffectiveKey := by
  intro s p
  rw [show exec .fkey s = execFkey s from rfl, execFkey_eq, ← effectiveKey_eq]
  exact ⟨fun hle hp => ⟨_, withPath_ok s _ p hle hp⟩, withPath_fails _⟩

/-! ### The spelling of a path never matters -/

/-- Normalisation makes no separator of another byte, and no other byte of a separator. -/
theorem isSeparator_normByte (b : Byte) : isSeparator (normByte b) = isSeparator b := by
  unfold normByte
  split_ifs with hletter hslash
  · have hb : isSeparator b = false := (isSeparator_false_iff b).mpr (by constructor <;> bv_omega)
    have hupper : isSeparator (b - 0x20) = false := (isSeparator_false_iff _).mpr (by constructor <;> bv_omega)
    rw [hb, hupper]
  · subst hslash
    rfl
  · rfl

/-- The normalised base name is the base name of the normalised path. -/
theorem normPath_baseName (p : Bytes) : normPath (baseName p) = baseName (normPath p) := by
  have hsep : ((fun b => !isSeparator b) ∘ normByte) = fun b => !isSeparator b :=
    funext fun b => congrArg not (isSeparator_normByte b)
  simp only [normPath, baseName, ← List.map_reverse, List.takeWhile_map, hsep]

/-- The hash sees a path through its normalisation alone. -/
theorem pathHash_congr {p q : Bytes} (h : normPath p = normPath q) (kind : HashKind) : pathHash kind p = pathHash kind q := by
  unfold pathHash hasherRun
  rw [h]

theorem pathHash_baseName_congr {p q : Bytes} (h : normPath p = normPath q) (kind : HashKind) :
    pathHash kind (baseName p) = pathHash kind (baseName q) :=
  pathHash_congr (by rw [normPath_baseName, normPath_baseName, h]) kind

section
variable {s t : State} {m : Memory} {p q : Bytes} (hp : s.input s.arg0.toNat = some p)
  (hq : ({ s with ibuf := m }).input s.arg0.toNat = some q)
include hp hq

/-- A path command ends alike on two written contents of IBUF when what it does with their paths is alike. -/
theorem withPath_withIbuf {k k' : Bytes → State} (hk : k' q = { k p with ibuf := m })
    (h : s.withPath k = .next t) : ({ s with ibuf := m }).withPath k' = .next { t with ibuf := m } := by
  rcases withPath_cases s k with ⟨hlong, he⟩ | ⟨hle, p', hp', he⟩ | ⟨-, -, he⟩ <;> rw [he] at h <;> cases h
  · exact withPath_tooLong { s with ibuf := m } k' hlong
  · obtain rfl : p = p' := Option.some.inj (hp.symm.trans hp')
    rw [← hk]
    exact withPath_ok { s with ibuf := m } k' q hle hq

variable (hn : normPath p = normPath q)
include hn

theorem hashCommand_withIbuf (kind : HashKind) (h : hashCommand kind s = .next t) :
    hashCommand kind { s with ibuf := m } = .next { t with ibuf := m } := by
  rw [hashCommand_eq] at h ⊢
  refine withPath_withIbuf hp hq ?_ h
  rw [pathHash_congr hn]
  rfl

theorem execHash3_withIbuf (h : execHash3 s = .next t) :
    execHash3 { s with ibuf := m } = .next { t with ibuf := m } := by
  rw [execHash3_eq] at h ⊢
  refine withPath_withIbuf hp hq ?_ h
  simp only [pathHash_congr hn]
  rfl

theorem execFkey_withIbuf (h : execFkey s = .next t) :
    execFkey { s with ibuf := m } = .next { t with ibuf := m } := by
  rw [execFkey_eq] at h ⊢
  refine withPath_withIbuf hp hq ?_ h
  rw [pathHash_baseName_congr hn]
  rfl

end

/-- Settles O39: what a path command writes is hashes of its path or of the base name, and a hash sees the normalised path alone. -/
theorem pathSpellingNeverMatters : Obligations.PathSpellingNeverMatters := by
  intro i hi s t m p q hp hq hn h
  simp only [List.mem_cons, List.not_mem_nil, or_false] at hi
  rcases hi with rfl | rfl | rfl | rfl | rfl | rfl
  · exact hashCommand_withIbuf hp hq hn .tableOffset h
  · exact hashCommand_withIbuf hp hq hn .nameA h
  · exact hashCommand_withIbuf hp hq hn .nameB h
  · exact hashCommand_withIbuf hp hq hn .fileKey h
  · exact execHash3_withIbuf hp hq hn h
  · exact execFkey_withIbuf hp hq hn h

end Sys2Proof.Machine
end

section
/-! PROOFS. The word cipher: its recurrences, that its two directions undo each other, the tail bytes, and DECRYPT and ENCRYPT
(42_cipher.md R180 to R186). -/

namespace Sys2Proof.Machine

open Sys2Proof.Claims

/-! ### The two directions -/

/-- Settles O40: `cipherStart`, `cipherMix`, `cipherWord` and `cipherFeed` are the rules' own terms, named. -/
theorem cipherRecurrences : Obligations.CipherRecurrences := fun _ _ _ _ => ⟨rfl, rfl, rfl, rfl, rfl, rfl, rfl⟩

/-- The key stream does not depend on the word, so the same XOR undoes itself. -/
@[simp] theorem cipherWord_cipherWord (c : Cipher) (w : Word) : cipherWord c (cipherWord c w) = w := by
  rw [cipherWord, cipherWord, BitVec.xor_assoc, BitVec.xor_self, BitVec.xor_zero]

/-- Both directions feed back the plaintext word, so the cipher that decrypts goes through the states of the one that encrypted. -/
theorem decryptRun_encryptRun (ws : List Word) : ∀ c : Cipher, decryptRun c (encryptRun c ws).2 = ((encryptRun c ws).1, ws) := by
  induction ws with
  | nil => intro c; rfl
  | cons w ws ih => intro c; simp [encryptRun, decryptRun, ih]

theorem encryptRun_decryptRun (ws : List Word) : ∀ c : Cipher, encryptRun c (decryptRun c ws).2 = ((decryptRun c ws).1, ws) := by
  induction ws with
  | nil => intro c; rfl
  | cons w ws ih => intro c; simp [encryptRun, decryptRun, ih]

/-- Settles O41: the round trip of a run from any cipher, at the cipher that the key starts. -/
theorem cipherDirectionsAreInverse : Obligations.CipherDirectionsAreInverse := fun ws key =>
  ⟨congrArg Prod.snd (decryptRun_encryptRun ws (cipherStart key)), congrArg Prod.snd (encryptRun_decryptRun ws (cipherStart key))⟩

/-! ### Bytes -/

/-- What follows whole words and is shorter than one is the tail. -/
theorem tailOf_unwords_append (ws : List Word) {tail : Bytes} (h : tail.length < 4) : tailOf (unwords ws ++ tail) = tail := by
  have hwhole : 4 * ((unwords ws ++ tail).length / 4) = (unwords ws).length := by
    rw [List.length_append, unwords_length]
    omega
  rw [tailOf, hwhole, List.drop_left]

/-- Settles O42: a byte string splits in one way into its words and its tail. -/
theorem tailBytesPassUnchanged : Obligations.TailBytesPassUnchanged := by
  intro ws tail key h
  rw [decryptBytes, wordsOf_unwords_append ws tail h, tailOf_unwords_append ws h]

@[simp] theorem wordsOf_unwords (ws : List Word) : wordsOf (unwords ws) = ws := by
  rw [← List.append_nil (unwords ws), wordsOf_unwords_append ws [] (by decide)]

/-- The bytes of whole words encrypted. -/
def encryptedBytes (bs : Bytes) (key : Word) : Bytes := unwords (encryptWords (wordsOf bs) key)

theorem encryptedBytes_length {bs : Bytes} (h : bs.length % 4 = 0) (key : Word) : (encryptedBytes bs key).length = bs.length := by
  rw [encryptedBytes, unwords_length, encryptWords, encryptRun_length, wordsOf_length]
  omega

/-- Encrypted bytes, read as words again and decrypted, are the bytes they were (42_cipher.md R183). -/
theorem decrypt_encryptedBytes {bs : Bytes} (h : bs.length % 4 = 0) (key : Word) :
    unwords (decryptWords (wordsOf (encryptedBytes bs key)) key) = bs := by
  rw [encryptedBytes, wordsOf_unwords, (cipherDirectionsAreInverse (wordsOf bs) key).1, unwords_wordsOf bs h]

/-! ### DECRYPT and ENCRYPT -/

section
variable {s : State} {bs : Bytes} (run : Cipher → List Word → Cipher × List Word)

theorem cipherCommand_outputs (h : 4 * s.arg0.toNat ≤ s.cfg.bufBytes) (hb : s.input (4 * s.arg0.toNat) = some bs) :
    outputs (cipherCommand run s) s (4 * s.arg0) (unwords (run (cipherStart s.arg5) (wordsOf bs)).2) :=
  ⟨_, _, cipherCommand_ok run s bs h hb, Memory.read_ofBytes _ 0⟩

theorem cipherCommand_failsOutput (h : s.cfg.bufBytes < 4 * s.arg0.toNat) :
    failsOutput (cipherCommand run s) s .badArgument :=
  ⟨_, if_pos h⟩

end

/-- Settles O43: the two sides of the length check, for the one command behind both directions. -/
theorem cipherCommandsWriteTheWords : Obligations.CipherCommandsWriteTheWords := fun _ _ =>
  ⟨fun h hb => ⟨cipherCommand_outputs decryptRun h hb, cipherCommand_outputs encryptRun h hb⟩,
    fun h => ⟨cipherCommand_failsOutput decryptRun h, cipherCommand_failsOutput encryptRun h⟩⟩

/-- What the host copies to IBUF from byte 0 up is the input of a command that takes as many bytes. -/
theorem input_writeBytes (s : State) (bs : Bytes) :
    ({ s with ibuf := s.ibuf.writeBytes 0 bs }).input bs.length = some bs := Memory.readBytes_writeBytes s.ibuf 0 bs

/-- Settles O44: the copy makes ENCRYPT's output DECRYPT's input, and the words come back from it. -/
theorem roundTripThroughTheBuffers : Obligations.RoundTripThroughTheBuffers := by
  intro s bs h hb
  have hbs : bs.length = 4 * s.arg0.toNat := input_length s _ bs hb
  have hwhole : bs.length % 4 = 0 := by omega
  have hout : (encryptedBytes bs s.arg5).length = 4 * s.arg0.toNat := (encryptedBytes_length hwhole _).trans hbs
  have hcopy := input_writeBytes (s.completeOutput (4 * s.arg0) (encryptedBytes bs s.arg5)) (encryptedBytes bs s.arg5)
  rw [hout] at hcopy
  refine ⟨_, encryptedBytes bs s.arg5, _, cipherCommand_ok encryptRun s bs h hb, ?_, cipherCommand_ok decryptRun _ _ h hcopy, rfl, ?_⟩
  · rw [← hout]
    exact Memory.readBytes_ofBytes 0 (encryptedBytes bs s.arg5)
  · show (Memory.ofBytes 0 (unwords (decryptWords (wordsOf (encryptedBytes bs s.arg5)) s.arg5))).readBytes 0 _ = some bs
    rw [decrypt_encryptedBytes hwhole, ← hbs]
    exact Memory.readBytes_ofBytes 0 bs

end Sys2Proof.Machine
end

section
/-! PROOFS. The sector decoder: stored sectors, the codec byte and its stages, the length of what it returns (43_decompress.md R200 to R207). -/

namespace Sys2Proof.Machine

open Sys2Proof.Claims

/-- Settles O45: what decodes has passed the length check, and what does not has one of the decoder's two codes. -/
theorem decodedSectorHasItsLength : Obligations.DecodedSectorHasItsLength := by
  intro o r e f
  cases h : decodeSector o r e f with
  | ok d => exact .inl ⟨d, rfl, decodeSector_length o r e f d h⟩
  | error x =>
    rcases decodeSector_error o r e f x h with rfl | rfl
    · exact .inr (.inl rfl)
    · exact .inr (.inr rfl)

/-! ### The paths of a sector -/

section
variable {o : CodecOrder} {r d : Bytes} {e : Nat} {f : Word}

theorem decodeSector_stored (h : r.length = e) (o : CodecOrder) (f : Word) : decodeSector o r e f = .ok r := if_pos h

theorem finalCheck_eq (d : Bytes) (e : Nat) : finalCheck d e = exactly e d := ite_not ..

/-- Past R201, what the selected path gives is checked for its length. -/
theorem decodeSector_notStored (h : r.length ≠ e) : decodeSector o r e f = (flagPath o r e f).bind (exactly e) := by
  rw [decodeSector, if_neg h]
  cases flagPath o r e f with
  | error x => rfl
  | ok d => exact finalCheck_eq d e

theorem flagPath_compressed (h : f &&& 0x00000200 ≠ 0) : flagPath o r e f = codecBytePath o r e :=
  if_pos ((hasBits_iff f _).mpr h)

theorem flagPath_imploded (hc : f &&& 0x00000200 = 0) (hi : f &&& 0x00000100 ≠ 0) : flagPath o r e f = stage .implode r e :=
  (if_neg (ne_true_of_eq_false ((hasBits_false_iff f _).mpr hc))).trans (if_pos ((hasBits_iff f _).mpr hi))

theorem codecBytePath_ok {cb : Byte} {cs : List Codec} (h : stages o cb = .ok cs) :
    codecBytePath o (cb :: d) e = runStages cs d e := by
  rw [codecBytePath, h]

theorem codecBytePath_error {cb : Byte} {x : Code} (h : stages o cb = .error x) : codecBytePath o (cb :: d) e = .error x := by
  rw [codecBytePath, h]

end

/-! ### The stages -/

/-- One stage and what follows it (43_decompress.md R206). -/
theorem stage_bind (c : Codec) (d : Bytes) (e : Nat) (k : Bytes → Except Code Bytes) :
    (stage c d e).bind k = undone (codecRun c d e) e k := by
  rw [stage]
  cases codecRun c d e with
  | none => rfl
  | some r =>
    by_cases h : r.length ≤ e
    · simp [undone, Nat.not_lt.mpr h, h, Except.bind]
    · simp [undone, Nat.lt_of_not_le h, h, Except.bind]

theorem runStages_cons (c : Codec) (cs : List Codec) (d : Bytes) (e : Nat) :
    runStages (c :: cs) d e = (stage c d e).bind fun r => runStages cs r e := by
  rw [runStages]
  cases stage c d e <;> rfl

theorem runStages_bind (e : Nat) (k : Bytes → Except Code Bytes) (cs : List Codec) : ∀ d : Bytes,
    (runStages cs d e).bind k = cs.foldr (fun c k r => undone (codecRun c r e) e k) k d := by
  induction cs with
  | nil => intro d; rfl
  | cons c cs ih =>
    intro d
    have hassoc : (runStages (c :: cs) d e).bind k = (stage c d e).bind fun r => (runStages cs r e).bind k := by
      rw [runStages_cons]
      cases stage c d e <;> rfl
    rw [hassoc, stage_bind, List.foldr_cons, funext ih]

theorem stages_unrecognised {cb : Byte} (h12 : cb ≠ 0x12) (h : cb &&& 0xC5 ≠ 0) (o : CodecOrder) :
    stages o cb = .error .unsupportedCodec := by
  rw [stages, if_neg h12, if_pos h]

theorem stages_recognised {cb : Byte} (h12 : cb ≠ 0x12) (h : cb &&& 0xC5 = 0) (o : CodecOrder) :
    stages o cb = .ok ((codecsInOrder o).filter fun c => cb &&& codecBit c != 0) := by
  rw [stages, if_neg h12, if_neg (not_not_intro h)]

section
variable {o : CodecOrder} {d : Bytes} {e : Nat} {f : Word} (hf : f &&& 0x00000200 ≠ 0) (hd : d.length + 1 ≠ e)
include hf hd

theorem decodeSector_codecByte (cb : Byte) : decodeSector o (cb :: d) e f = (codecBytePath o (cb :: d) e).bind (exactly e) := by
  rw [decodeSector_notStored (r := cb :: d) hd, flagPath_compressed hf]

/-- A sector with a codec byte: its stages in order, then the length check. -/
theorem decodeSector_stages {cb : Byte} {cs : List Codec} (h : stages o cb = .ok cs) :
    decodeSector o (cb :: d) e f = cs.foldr (fun c k r => undone (codecRun c r e) e k) (exactly e) d := by
  rw [decodeSector_codecByte hf hd, codecBytePath_ok h, runStages_bind]

theorem decodeSector_oneStage (cb : Byte) (c : Codec) (h : stages o cb = .ok [c]) :
    decodeSector o (cb :: d) e f = undone (codecRun c d e) e (exactly e) := decodeSector_stages hf hd h

end

/-- Settles O47: the stages of any codec byte are a fold, of which the named codec bytes and the two orders of 0x22 are instances. -/
theorem codecStagesDecide : Obligations.CodecStagesDecide := by
  intro o d e f
  refine ⟨fun cb cs h hf hd => decodeSector_stages hf hd h, ?_, ?_, fun hf hd => ⟨?_, ?_⟩⟩
  · intro cf hcf hf hd
    simp only [List.mem_cons, List.not_mem_nil, or_false] at hcf
    rcases hcf with rfl | rfl | rfl | rfl | rfl
    · exact decodeSector_oneStage hf hd 0x02 .zlib (by cases o <;> decide)
    · exact decodeSector_oneStage hf hd 0x08 .implode (by cases o <;> decide)
    · exact decodeSector_oneStage hf hd 0x10 .bzip2 (by cases o <;> decide)
    · exact decodeSector_oneStage hf hd 0x12 .lzma rfl
    · exact decodeSector_oneStage hf hd 0x20 .sparse (by cases o <;> decide)
  · intro hc hi hd
    rw [decodeSector_notStored hd, flagPath_imploded hc hi, stage_bind]
    rfl
  · exact decodeSector_stages hf hd (cs := [.sparse, .zlib]) (by decide)
  · exact decodeSector_stages hf hd (cs := [.zlib, .sparse]) (by decide)

/-! ### Flags that matter, and sectors that run no codec -/

theorem hasBits_congr {f f' wide mask : Word} (h : f &&& wide = f' &&& wide) (hm : wide &&& mask = mask) :
    hasBits f mask = hasBits f' mask := by
  rw [hasBits, hasBits, ← hm, ← BitVec.and_assoc, h, BitVec.and_assoc]

/-- Of the flag word only COMPRESSED and IMPLODED select (43_decompress.md R202). -/
theorem decodeSector_congr {f f' : Word} (h : f &&& 0x00000300 = f' &&& 0x00000300) (o : CodecOrder) (r : Bytes) (e : Nat) :
    decodeSector o r e f = decodeSector o r e f' := by
  have hc : flagCompressed f = flagCompressed f' := hasBits_congr h (by decide)
  have hi : flagImploded f = flagImploded f' := hasBits_congr h (by decide)
  rw [decodeSector, decodeSector, flagPath, flagPath, hc, hi]

/-- Settles O46: each case is one path of the decoder; a word with neither flag selects as the word 0 does. -/
theorem storedSectorsAndCodecByte : Obligations.StoredSectorsAndCodecByte := by
  intro o r e f
  refine ⟨fun h => decodeSector_stored h o f, ?_, ?_, ?_⟩
  · intro hr hf
    rw [decodeSector_congr (f' := 0) hf, decodeSector_notStored hr]
    exact if_neg hr
  · intro he hf
    rw [decodeSector_notStored (r := []) he.ne, flagPath_compressed hf]
    rfl
  · rintro cb d rfl hr hf
    refine ⟨fun h12 hbits => ?_, ?_⟩
    · rw [decodeSector_codecByte hf hr, codecBytePath_error (stages_unrecognised h12 hbits o)]
      rfl
    · rintro rfl
      exact decodeSector_stages hf hr (cs := []) (by cases o <;> decide)

/-! ### The two orders -/

theorem filter_codecBit_cons (cb : Byte) (c : Codec) (cs : List Codec) :
    ((c :: cs).filter fun c => cb &&& codecBit c != 0) =
      ifBit cb (codecBit c) c ++ cs.filter fun c => cb &&& codecBit c != 0 := by
  rw [List.filter_cons, ifBit]
  simp only [bne_iff_ne]
  split <;> rfl

/-- The stages that keep their places among themselves in either order (43_decompress.md R205). -/
def denseStages (cb : Byte) : List Codec := ifBit cb 0x10 .bzip2 ++ ifBit cb 0x08 .implode ++ ifBit cb 0x02 .zlib

theorem stages_descending {cb : Byte} (h12 : cb ≠ 0x12) (h : cb &&& 0xC5 = 0) :
    stages .descending cb = .ok (ifBit cb 0x20 .sparse ++ denseStages cb) := by
  rw [stages_recognised h12 h]
  simp only [codecsInOrder, filter_codecBit_cons, List.filter_nil, List.append_nil, denseStages, List.append_assoc]
  rfl

theorem stages_reference {cb : Byte} (h12 : cb ≠ 0x12) (h : cb &&& 0xC5 = 0) :
    stages .reference cb = .ok (denseStages cb ++ ifBit cb 0x20 .sparse) := by
  rw [stages_recognised h12 h]
  simp only [codecsInOrder, filter_codecBit_cons, List.filter_nil, List.append_nil, denseStages, List.append_assoc]
  rfl

theorem ifBit_eq_nil_iff (cb bit : Byte) (c : Codec) : ifBit cb bit c = [] ↔ cb &&& bit = 0 := by
  rw [ifBit, ite_not]
  split <;> simp_all

theorem denseStages_eq_nil_iff (cb : Byte) : denseStages cb = [] ↔ cb &&& 0x1A = 0 := by
  have hmask : cb &&& 0x1A = cb &&& 0x10 ||| cb &&& 0x08 ||| cb &&& 0x02 := by
    rw [← BitVec.and_or_distrib_left, ← BitVec.and_or_distrib_left]
    rfl
  rw [hmask, denseStages, List.append_eq_nil_iff, List.append_eq_nil_iff, ifBit_eq_nil_iff, ifBit_eq_nil_iff, ifBit_eq_nil_iff]
  exact (BitVec.or_eq_zero_iff.trans (and_congr_left' BitVec.or_eq_zero_iff)).symm

theorem sparse_notMem_denseStages (cb : Byte) : Codec.sparse ∉ denseStages cb := by simp [denseStages, ifBit]

/-- An element can move from the front of a list to its end only where nothing else stands in it. -/
theorem cons_eq_concat_iff {α : Type} {a : α} {l : List α} (h : a ∉ l) : a :: l = l ++ [a] ↔ l = [] := by
  cases l with
  | nil => simp
  | cons b l => simpa using fun hab : a = b => absurd (hab ▸ List.mem_cons_self) h

/-- Settles O48: sparse stands before the other stages or after them. -/
theorem stageOrders : Obligations.StageOrders := by
  intro cb h12 h
  have hdesc := stages_descending h12 h
  have href := stages_reference h12 h
  refine ⟨by simpa [denseStages] using hdesc, by simpa [denseStages] using href, ?_⟩
  rw [hdesc, href, Ne, Except.ok.injEq]
  by_cases hs : cb &&& 0x20 = 0
  · simp only [(ifBit_eq_nil_iff cb 0x20 .sparse).mpr hs, List.nil_append, List.append_nil, hs, ne_eq, not_true_eq_false, false_and]
  · have hset : ifBit cb 0x20 .sparse = [.sparse] := if_pos hs
    rw [hset, List.singleton_append, cons_eq_concat_iff (sparse_notMem_denseStages cb), denseStages_eq_nil_iff]
    exact (and_iff_right hs).symm

end Sys2Proof.Machine
end

section
/-! PROOFS. The sparse codec's format: its header, its chunks, and that the loop takes one chunk at a time (43_decompress.md R210 to R212). -/

namespace Sys2Proof.Machine

open Sys2Proof.Claims

/-! ### The header -/

theorem sparseHeader_be32 (b0 b1 b2 b3 : Byte) : sparseHeader (be32 b0 b1 b2 b3).toNat = [b0, b1, b2, b3] := by
  have h0 := b0.isLt; have h1 := b1.isLt; have h2 := b2.isLt; have h3 := b3.isLt
  simp only [sparseHeader, be32_toNat, List.cons.injEq, and_true]
  refine ⟨?_, ?_, ?_, ?_⟩ <;> apply BitVec.eq_of_toNat_eq <;> rw [BitVec.toNat_ofNat] <;> omega

theorem sparse_sparseHeader {n : Nat} (h : n < 2 ^ 32) (rest : Bytes) :
    sparse (sparseHeader n ++ rest) = sparseLoop n rest.length rest [] := by
  have hn : (be32 (BitVec.ofNat 8 (n / 2 ^ 24)) (BitVec.ofNat 8 (n / 2 ^ 16)) (BitVec.ofNat 8 (n / 2 ^ 8))
      (BitVec.ofNat 8 n)).toNat = n := by
    simp only [be32_toNat, BitVec.toNat_ofNat]
    omega
  simp only [sparseHeader, List.cons_append, List.nil_append, sparse, hn]

/-- Fewer than four bytes have no header. -/
theorem sparse_some {d out : Bytes} (h : sparse d = some out) :
    ∃ n rest, n < 2 ^ 32 ∧ d = sparseHeader n ++ rest ∧ sparseLoop n rest.length rest [] = some out := by
  match d, h with
  | b0 :: b1 :: b2 :: b3 :: rest, h =>
    exact ⟨(be32 b0 b1 b2 b3).toNat, rest, (be32 b0 b1 b2 b3).isLt, by rw [sparseHeader_be32]; rfl, h⟩

/-! ### One chunk -/

theorem toNat_and_0x7F (c : Byte) : (c &&& 0x7F).toNat = c.toNat % 128 := by
  rw [BitVec.toNat_and]
  exact Nat.and_two_pow_sub_one_eq_mod c.toNat 7

/-- Bit 7 tells a chunk of literal bytes from one of zeros (43_decompress.md R211). -/
theorem and_0x80_ne_zero_iff (c : Byte) : c &&& 0x80 ≠ 0 ↔ 128 ≤ c.toNat := by
  revert c
  decide

/-- The loop takes a legal chunk off the stream and puts what it stands for on the output. -/
theorem sparseLoop_chunk {c : Chunk} (hc : c.legal) (n fuel : Nat) (rest out : Bytes) :
    sparseLoop n (fuel + 1) (c.stream ++ rest) out =
      if (out ++ c.output).length > n then none else sparseLoop n fuel rest (out ++ c.output) := by
  cases c with
  | literal bs =>
    obtain ⟨hlo, hhi⟩ := hc
    have hbyte : (BitVec.ofNat 8 (0x80 + (bs.length - 1))).toNat = 0x80 + (bs.length - 1) :=
      Nat.mod_eq_of_lt (by omega)
    have hbit := (and_0x80_ne_zero_iff (BitVec.ofNat 8 (0x80 + (bs.length - 1)))).mpr (by omega)
    have hk : (BitVec.ofNat 8 (0x80 + (bs.length - 1)) &&& 0x7F).toNat + 1 = bs.length := by
      rw [toNat_and_0x7F]
      omega
    rw [Chunk.stream, List.cons_append, sparseLoop]
    simp only [if_pos hbit, hk]
    rw [if_neg (by simp), List.take_left, List.drop_left]
    rfl
  | zeros m =>
    obtain ⟨hlo, hhi⟩ := hc
    have hbyte : (BitVec.ofNat 8 (m - 3)).toNat = m - 3 := Nat.mod_eq_of_lt (by omega)
    have hbit := mt (and_0x80_ne_zero_iff (BitVec.ofNat 8 (m - 3))).mp (by omega)
    have hk : (BitVec.ofNat 8 (m - 3) &&& 0x7F).toNat + 3 = m := by
      rw [toNat_and_0x7F]
      omega
    rw [Chunk.stream, List.cons_append, sparseLoop]
    simp only [if_neg hbit, hk]
    rfl

/-- A stream the loop does not refuse at once begins with a legal chunk. -/
theorem exists_chunk_of_sparseLoop_some {n fuel : Nat} {b : Byte} {bs out r : Bytes}
    (h : sparseLoop n (fuel + 1) (b :: bs) out = some r) : ∃ c : Chunk, c.legal ∧ ∃ rest, b :: bs = c.stream ++ rest := by
  have hb := b.isLt
  by_cases hbit : b &&& 0x80 ≠ 0
  · have hlow := (and_0x80_ne_zero_iff b).mp hbit
    rw [sparseLoop] at h
    simp only [if_pos hbit, toNat_and_0x7F] at h
    by_cases hshort : b.toNat % 128 + 1 > bs.length
    · rw [if_pos hshort] at h
      cases h
    · have hlen : (bs.take (b.toNat % 128 + 1)).length = b.toNat % 128 + 1 := List.length_take_of_le (by omega)
      have hhead : BitVec.ofNat 8 (0x80 + (b.toNat % 128 + 1 - 1)) = b := by
        apply BitVec.eq_of_toNat_eq
        rw [BitVec.toNat_ofNat]
        omega
      refine ⟨.literal (bs.take (b.toNat % 128 + 1)), ⟨by omega, by omega⟩, bs.drop (b.toNat % 128 + 1), ?_⟩
      rw [Chunk.stream, hlen, hhead, List.cons_append, List.take_append_drop]
  · have hlow := mt (and_0x80_ne_zero_iff b).mpr hbit
    refine ⟨.zeros (b.toNat + 3), ⟨by omega, by omega⟩, bs, ?_⟩
    rw [Chunk.stream, Nat.add_sub_cancel, BitVec.ofNat_toNat, BitVec.setWidth_eq]
    rfl

/-! ### All chunks -/

theorem sparseLoop_nil (n fuel : Nat) (out : Bytes) : sparseLoop n fuel [] out = if out.length = n then some out else none := by
  cases fuel <;> rfl

/-- What the loop can do: end with the stream, at the declared length, or take one legal chunk and go on. -/
theorem sparseLoop_cases {n fuel : Nat} {d out r : Bytes} (h : sparseLoop n fuel d out = some r) :
    (d = [] ∧ r = out ∧ r.length = n) ∨
    ∃ fuel' rest, ∃ c : Chunk, fuel = fuel' + 1 ∧ c.legal ∧ d = c.stream ++ rest ∧
      sparseLoop n fuel' rest (out ++ c.output) = some r := by
  cases d with
  | nil =>
    rw [sparseLoop_nil] at h
    obtain ⟨hn, hout⟩ := Option.ite_none_right_eq_some.mp h
    cases hout
    exact .inl ⟨rfl, rfl, hn⟩
  | cons b bs =>
    cases fuel with
    | zero => cases h
    | succ fuel =>
      obtain ⟨c, hc, rest, hd⟩ := exists_chunk_of_sparseLoop_some h
      rw [hd, sparseLoop_chunk hc] at h
      exact .inr ⟨fuel, rest, c, rfl, hc, hd, (Option.ite_none_left_eq_some.mp h).2⟩

theorem sparseLoop_sound {n fuel : Nat} {d out r : Bytes} (h : sparseLoop n fuel d out = some r) :
    r.length = n ∧ ∃ cs : List Chunk, (∀ c ∈ cs, c.legal) ∧ d = cs.flatMap Chunk.stream ∧ r = out ++ cs.flatMap Chunk.output := by
  induction fuel using Nat.strong_induction_on generalizing d out with
  | _ fuel ih =>
    rcases sparseLoop_cases h with ⟨rfl, rfl, hn⟩ | ⟨fuel', rest, c, rfl, hc, rfl, hrest⟩
    · exact ⟨hn, [], by simp⟩
    · obtain ⟨hn, cs, hcs, rfl, rfl⟩ := ih fuel' (Nat.lt_succ_self _) hrest
      exact ⟨hn, c :: cs, List.forall_mem_cons.mpr ⟨hc, hcs⟩, rfl, List.append_assoc ..⟩

theorem stream_length_pos (c : Chunk) : 0 < c.stream.length := by
  cases c <;> exact Nat.succ_pos _

/-- Every chunk takes a byte of the stream, so fuel equal to the stream's length is enough. -/
theorem sparseLoop_complete {n : Nat} {cs : List Chunk} (hcs : ∀ c ∈ cs, c.legal) : ∀ {fuel : Nat} {out : Bytes},
    (cs.flatMap Chunk.stream).length ≤ fuel → (out ++ cs.flatMap Chunk.output).length = n →
    sparseLoop n fuel (cs.flatMap Chunk.stream) out = some (out ++ cs.flatMap Chunk.output) := by
  induction cs with
  | nil =>
    intro fuel out _ hn
    simpa [sparseLoop_nil] using hn
  | cons c cs ih =>
    intro fuel out hfuel hn
    obtain ⟨hc, hcs⟩ := List.forall_mem_cons.mp hcs
    have hpos := stream_length_pos c
    rw [List.flatMap_cons, List.length_append] at hfuel
    have houtput : out ++ (c :: cs).flatMap Chunk.output = out ++ c.output ++ cs.flatMap Chunk.output :=
      (List.append_assoc ..).symm
    rw [houtput] at hn ⊢
    obtain ⟨fuel, rfl⟩ := Nat.exists_eq_succ_of_ne_zero (show fuel ≠ 0 by omega)
    have hfits : ¬ (out ++ c.output).length > n := by
      rw [List.length_append] at hn
      omega
    rw [List.flatMap_cons, sparseLoop_chunk hc, if_neg hfits, ih hcs (by omega) hn]

/-- Settles O49: the header is read as it is written, and the loop takes the chunks of the rest one by one. -/
theorem sparseDecodesExactlyItsFormat : Obligations.SparseDecodesExactlyItsFormat := by
  intro d out
  constructor
  · intro h
    obtain ⟨n, rest, hlt, rfl, hloop⟩ := sparse_some h
    obtain ⟨rfl, cs, hcs, rfl, rfl⟩ := sparseLoop_sound hloop
    exact ⟨cs, hcs, hlt, rfl, rfl⟩
  · rintro ⟨cs, hcs, hlt, rfl, hout⟩
    rw [sparse_sparseHeader hlt, sparseLoop_complete hcs le_rfl (by rw [hout, List.nil_append]), hout, List.nil_append]

end Sys2Proof.Machine
end

section
/-! PROOFS. DECOMP: its operand checks, and the sector decoder's answer as the command's outcome (43_decompress.md R216). -/

namespace Sys2Proof.Machine

open Sys2Proof.Claims

theorem execDecomp_badArgument {s : State} (h : s.cfg.bufBytes < s.arg0.toNat) :
    execDecomp s = .next (s.completeError .badArgument) := if_pos h

theorem execDecomp_outputOverflow {s : State} (h0 : s.arg0.toNat ≤ s.cfg.bufBytes) (h3 : s.cfg.bufBytes < s.arg3.toNat) :
    execDecomp s = .next (s.completeError .outputOverflow) := (if_neg (Nat.not_lt.mpr h0)).trans (if_pos h3)

section
variable {s : State} {r : Bytes} (h0 : s.arg0.toNat ≤ s.cfg.bufBytes) (h3 : s.arg3.toNat ≤ s.cfg.bufBytes)
  (hr : s.input s.arg0.toNat = some r)
include h0 h3 hr

theorem execDecomp_ok {out : Bytes} (hd : decodeSector s.cfg.codecOrder r s.arg3.toNat s.arg4 = .ok out) :
    execDecomp s = .next (s.completeOutput s.arg3 out) := by
  rw [execDecomp, if_neg (Nat.not_lt.mpr h0), if_neg (Nat.not_lt.mpr h3), withInput_some s _ _ r hr, hd]

theorem execDecomp_error {x : Code} (hd : decodeSector s.cfg.codecOrder r s.arg3.toNat s.arg4 = .error x) :
    execDecomp s = .next (s.completeError x) := by
  rw [execDecomp, if_neg (Nat.not_lt.mpr h0), if_neg (Nat.not_lt.mpr h3), withInput_some s _ _ r hr, hd]

end

/-- Settles O50: DECOMP's checks in their order, then the decoder's answer; its flags select as `decodeSector_congr` says. -/
theorem decompDecodesOneSector : Obligations.DecompDecodesOneSector := by
  refine ⟨fun o r e f f' h => decodeSector_congr h o r e, fun s => ⟨?_, ?_, fun h0 h3 r hr => ⟨?_, ?_⟩⟩⟩
  · exact fun h0 => ⟨_, execDecomp_badArgument h0⟩
  · exact fun h0 h3 => ⟨_, execDecomp_outputOverflow h0 h3⟩
  · exact fun out hd => ⟨_, _, execDecomp_ok h0 h3 hr hd, Memory.read_ofBytes out 0⟩
  · exact fun x hd => ⟨_, execDecomp_error h0 h3 hr hd⟩

/-- Settles O51: the stored length is the expected one, so the decoder returns the sector itself. -/
theorem decompCopiesAStoredSector : Obligations.DecompCopiesAStoredSector := by
  intro s r heq h0 hr
  have hlen : r.length = s.arg3.toNat := heq ▸ input_length s _ r hr
  exact ⟨_, _, execDecomp_ok h0 (heq ▸ h0) hr (decodeSector_stored hlen _ _), Memory.read_ofBytes r 0⟩

end Sys2Proof.Machine
end

section
/-! PROOFS. The sector reader: the expected lengths, what a job's reads give in the terms of the operand registers, and RDFILE's outcome
from what its file reads as (44_sector_reader.md R240 to R252). -/

namespace Sys2Proof.Machine

open Sys2Proof.Claims

/-! ### The expected lengths (44_sector_reader.md R248) -/

section
variable (j : ReadJob)

theorem ReadJob.sectorSize_pos : 0 < j.sectorSize := by
  rw [ReadJob.sectorSize, Nat.shiftLeft_eq]
  positivity

/-- The number of sectors is the least that covers the file. -/
theorem ReadJob.sectorCount_le_iff (m : Nat) : j.sectorCount ≤ m ↔ j.usize ≤ m * j.sectorSize := by
  rw [mul_comm, ReadJob.sectorCount, ← Nat.ceilDiv_eq_add_pred_div, ceilDiv_le_iff_le_mul j.sectorSize_pos]

theorem ReadJob.lt_sectorCount_iff (m : Nat) : m < j.sectorCount ↔ m * j.sectorSize < j.usize := by
  rw [← not_le, ← not_le, j.sectorCount_le_iff]

/-- The first `m` sectors expect `m` whole sectors, or all of a file that is shorter. -/
theorem ReadJob.sum_expected (m : Nat) : ((List.range m).map j.expected).sum = min (m * j.sectorSize) j.usize := by
  induction m with
  | zero => simp
  | succ m ih =>
    rw [List.range_succ, List.map_append, List.sum_append, ih, List.map_singleton, List.sum_singleton, ReadJob.expected,
      Nat.succ_mul]
    omega

theorem ReadJob.sum_expected_sectorCount : ((List.range j.sectorCount).map j.expected).sum = j.usize := by
  rw [j.sum_expected, min_eq_right ((j.sectorCount_le_iff _).mp le_rfl)]

end

/-- Settles O60: the last sector begins before the file's end and reaches it. -/
theorem expectedLengthsSumToTheFile : Obligations.ExpectedLengthsSumToTheFile := by
  intro j hpos
  obtain ⟨n, hn⟩ : ∃ n, j.sectorCount = n + 1 :=
    Nat.exists_eq_add_one.mpr ((j.lt_sectorCount_iff 0).mpr (by rwa [zero_mul]))
  have hlast : n * j.sectorSize < j.usize := (j.lt_sectorCount_iff n).mp (by omega)
  have hend : j.usize ≤ (n + 1) * j.sectorSize := (j.sectorCount_le_iff _).mp hn.le
  rw [Nat.succ_mul] at hend
  refine ⟨fun i hi => ?_, ?_, ?_, ?_, j.sum_expected_sectorCount⟩
  · have hwhole := (j.lt_sectorCount_iff (i + 1)).mp hi
    rw [Nat.succ_mul] at hwhole
    exact min_eq_left (by omega)
  all_goals
    rw [hn, Nat.add_sub_cancel, ReadJob.expected]
    omega

/-! ### A file that reads has its length (44_sector_reader.md R250) -/

theorem readSector_length {j : ReadJob} {key : Word} {a n e : Nat} {d : Bytes} (h : readSector j key a n e = .ok d) :
    d.length = e := by
  unfold readSector at h
  split at h
  · cases h
  · exact decodeSector_length _ _ _ _ _ h

theorem readSectors_length {j : ReadJob} {off : List Nat} : ∀ {is : List Nat} {out : Bytes},
    readSectors j off is = .ok out → out.length = (is.map j.expected).sum
  | [], _, h => by cases h; rfl
  | i :: is, out, h => by
    unfold readSectors at h
    split at h
    · cases h
    · rename_i d hd
      split at h
      · cases h
      · rename_i ds hds
        cases h
        rw [List.length_append, readSector_length hd, readSectors_length hds, List.map_cons, List.sum_cons]

theorem readContents_length {j : ReadJob} {out : Bytes} (h : readContents j = .ok out) : out.length = j.usize := by
  unfold readContents at h
  split_ifs at h with hempty
  · cases h
    exact hempty.symm
  · exact readSector_length h
  · split at h
    · cases h
    · rw [readSectors_length h, j.sum_expected_sectorCount]

/-! ### The sectors in their order (44_sector_reader.md R245, R251) -/

section
variable {j : ReadJob} {off is : List Nat} {piece : Nat → Bytes}

theorem readSectors_append (h : ∀ i ∈ is, readNth j off i = .ok (piece i)) (rest : List Nat) :
    readSectors j off (is ++ rest) = (readSectors j off rest).map (is.flatMap piece ++ ·) := by
  induction is with
  | nil => cases hr : readSectors j off rest <;> simp [hr, Except.map]
  | cons i is ih =>
    rw [List.forall_mem_cons] at h
    rw [List.cons_append, readSectors, h.1, ih h.2]
    cases readSectors j off rest <;> simp [Except.map]

theorem readSectors_ok (h : ∀ i ∈ is, readNth j off i = .ok (piece i)) : readSectors j off is = .ok (is.flatMap piece) := by
  simpa [readSectors, Except.map] using readSectors_append h []

/-- The first sector that fails decides, whatever follows it. -/
theorem readSectors_error {k : Nat} {x : Code} (h : ∀ i ∈ is, readNth j off i = .ok (piece i)) (hk : readNth j off k = .error x)
    (rest : List Nat) : readSectors j off (is ++ k :: rest) = .error x := by
  rw [readSectors_append h, readSectors, hk]
  rfl

end

/-- The sectors before a sector, that sector, and those after it. -/
theorem range_eq_append_cons {k n : Nat} (h : k < n) : ∃ rest, List.range n = List.range k ++ k :: rest := by
  obtain ⟨m, rfl⟩ := Nat.exists_eq_add_of_lt h
  refine ⟨(List.range m).map (k + ·.succ), ?_⟩
  rw [add_assoc, List.range_add, List.range_succ_eq_map]
  simp

/-! ### A job's reads, in the terms of the operand registers -/

section
variable (s : State)

@[simp] theorem job_cfg : s.job.cfg = s.cfg := rfl
@[simp] theorem job_flags : s.job.flags = s.arg4 := rfl
@[simp] theorem job_key : s.job.key = s.arg5 := rfl
@[simp] theorem job_usize : s.job.usize = s.arg3.toNat := rfl
@[simp] theorem job_csize : s.job.csize = s.arg2.toNat := rfl
@[simp] theorem job_pos : s.job.pos = s.arg1.toNat := rfl
@[simp] theorem job_src : s.job.src = s.src := rfl
@[simp] theorem job_fails : s.job.fails = s.srcFail := rfl

@[simp] theorem job_sectorSize : s.job.sectorSize = sectorSize s := Nat.shiftLeft_eq _ _

@[simp] theorem job_sectorCount : s.job.sectorCount = sectorCount s := by
  rw [ReadJob.sectorCount, job_sectorSize, job_usize, sectorCount]

theorem job_expected (i : Nat) : s.job.expected i = min (sectorSize s) (s.arg3.toNat - i * sectorSize s) := by
  rw [ReadJob.expected, job_sectorSize, job_usize]

theorem job_hasOffsetTable : s.job.hasOffsetTable = true ↔ s.cfg.offsetTable = .always ∨ s.arg4 &&& 0x00000300 ≠ 0 := by
  rw [← hasBits_iff, ReadJob.hasOffsetTable, job_cfg, job_flags]
  cases s.cfg.offsetTable <;> simp

theorem job_flagSingleUnit : flagSingleUnit s.job.flags = true ↔ s.arg4 &&& 0x01000000 ≠ 0 := hasBits_iff _ _

variable {s} {a n : Nat}

theorem srcRead_readsWell (h : readsWell s a n) : srcRead s.src s.srcFail a n = .ok (slice s a n) := by
  rw [srcRead, slice]
  split_ifs with hn hlong hmem
  · rw [hn, List.take_zero]
  · obtain h | ⟨hin, -⟩ := h <;> omega
  · obtain h | ⟨-, hout⟩ := h
    · exact absurd h hn
    · exact absurd hmem hout
  · rfl

theorem srcRead_not_readsWell (h : ¬ readsWell s a n) : srcRead s.src s.srcFail a n = .error .ioError := by
  rw [srcRead]
  split_ifs with hn hlong hmem
  · exact absurd (.inl hn) h
  · rfl
  · rfl
  · exact absurd (.inr ⟨by omega, hmem⟩) h

/-- The model's test of ENCRYPTED and the statement's mask decide alike. -/
theorem ite_flagEncrypted (key : Word) (stored : Bytes) :
    (if flagEncrypted s.arg4 then decryptBytes stored key else stored) = decrypted s key stored :=
  if_congr (hasBits_iff _ _) rfl rfl

theorem readStored_readsWell (key : Word) (h : readsWell s a n) : readStored s.job key a n = .ok (decrypted s key (slice s a n)) := by
  rw [readStored, job_src, job_fails, srcRead_readsWell h, job_flags, ← ite_flagEncrypted]

theorem readStored_not_readsWell (key : Word) (h : ¬ readsWell s a n) : readStored s.job key a n = .error .ioError := by
  rw [readStored, job_src, job_fails, srcRead_not_readsWell h]

theorem readSector_readsWell (key : Word) (e : Nat) (h : readsWell s a n) :
    readSector s.job key a n e = decodeSector s.cfg.codecOrder (decrypted s key (slice s a n)) e s.arg4 := by
  rw [readSector, readStored_readsWell key h, job_cfg, job_flags]

theorem readSector_not_readsWell (key : Word) (e : Nat) (h : ¬ readsWell s a n) : readSector s.job key a n e = .error .ioError := by
  rw [readSector, readStored_not_readsWell key h]

end

/-! ### The offsets of a sectored file (44_sector_reader.md R246, R247) -/

/-- `CheckOffsets` is the three conditions of R247. -/
theorem checkOffsets_iff (off : List Nat) (n csize : Nat) : checkOffsets off n csize = true ↔
    4 * (n + 1) ≤ off.getD 0 0 ∧ (∀ i, i < n → off.getD i 0 ≤ off.getD (i + 1) 0) ∧ off.getD n 0 = csize := by
  simp [checkOffsets, and_assoc]

/-- The entries of the file's offset table, decrypted with `key - 1` (44_sector_reader.md R244, R245). -/
def tableEntries (s : State) : List Nat :=
  (wordsOf (decrypted s (s.arg5 - 1) (slice s s.arg1.toNat (4 * (sectorCount s + 1))))).map BitVec.toNat

section
variable {s : State} (htab : s.cfg.offsetTable = .always ∨ s.arg4 &&& 0x00000300 ≠ 0)
include htab

theorem fileOffsets_table_iff (off : List Nat) : fileOffsets s off ↔
    readsWell s s.arg1.toNat (4 * (sectorCount s + 1)) ∧ off = tableEntries s ∧
      checkOffsets (tableEntries s) (sectorCount s) s.arg2.toNat = true := by
  rw [fileOffsets, if_pos htab, ← tableEntries, ← checkOffsets_iff]
  refine and_congr_right fun _ => and_congr_right fun hoff => ?_
  rw [hoff]

theorem readOffsets_unreadable (hw : ¬ readsWell s s.arg1.toNat (4 * (sectorCount s + 1))) :
    readOffsets s.job = .error .ioError := by
  rw [readOffsets, if_pos ((job_hasOffsetTable s).mpr htab), job_sectorCount, job_pos, readStored_not_readsWell _ hw]

theorem readOffsets_readable (hw : readsWell s s.arg1.toNat (4 * (sectorCount s + 1))) : readOffsets s.job =
    if checkOffsets (tableEntries s) (sectorCount s) s.arg2.toNat then .ok (tableEntries s) else .error .decodeError := by
  rw [readOffsets, if_pos ((job_hasOffsetTable s).mpr htab), job_sectorCount, job_pos, job_key, job_csize,
    readStored_readsWell _ hw, tableEntries]

theorem readOffsets_implausible (hw : readsWell s s.arg1.toNat (4 * (sectorCount s + 1))) (hoff : ¬ ∃ off, fileOffsets s off) :
    readOffsets s.job = .error .decodeError := by
  rw [readOffsets_readable htab hw, if_neg]
  exact fun hcheck => hoff ⟨_, (fileOffsets_table_iff htab _).mpr ⟨hw, rfl, hcheck⟩⟩

end

theorem readOffsets_noTable {s : State} (htab : ¬ (s.cfg.offsetTable = .always ∨ s.arg4 &&& 0x00000300 ≠ 0)) :
    readOffsets s.job = .ok ((List.range (sectorCount s + 1)).map fun i => min (i * sectorSize s) s.arg3.toNat) := by
  rw [readOffsets, if_neg (mt (job_hasOffsetTable s).mp htab), job_sectorCount, job_sectorSize, job_usize]

/-- The offsets of the statements are those the reader finds. -/
theorem readOffsets_of_fileOffsets {s : State} {off : List Nat} (h : fileOffsets s off) : readOffsets s.job = .ok off := by
  by_cases htab : s.cfg.offsetTable = .always ∨ s.arg4 &&& 0x00000300 ≠ 0
  · obtain ⟨hw, rfl, hcheck⟩ := (fileOffsets_table_iff htab off).mp h
    rw [readOffsets_readable htab hw, if_pos hcheck]
  · rw [fileOffsets, if_neg htab] at h
    rw [readOffsets_noTable htab, h]

/-! ### Sector `i` of a sectored file -/

/-- Sector `i` can be read at its place. -/
def sectorReadable (s : State) (off : List Nat) (i : Nat) : Prop :=
  readsWell s (s.arg1.toNat + off.getD i 0) (off.getD (i + 1) 0 - off.getD i 0)

/-- What sector `i` decodes to: its stored bytes, decrypted with `key + i`, to its expected length. -/
def sectorDecoded (s : State) (off : List Nat) (i : Nat) : Except Code Bytes :=
  decodeSector s.cfg.codecOrder
    (decrypted s (s.arg5 + BitVec.ofNat 32 i) (slice s (s.arg1.toNat + off.getD i 0) (off.getD (i + 1) 0 - off.getD i 0)))
    (min (sectorSize s) (s.arg3.toNat - i * sectorSize s)) s.arg4

section
variable {s : State} {off : List Nat} {i : Nat}

theorem readNth_readable (h : sectorReadable s off i) : readNth s.job off i = sectorDecoded s off i := by
  rw [readNth, job_pos, job_key, job_expected, readSector_readsWell _ _ h, sectorDecoded]

theorem readNth_unreadable (h : ¬ sectorReadable s off i) : readNth s.job off i = .error .ioError := by
  rw [readNth, job_pos, readSector_not_readsWell _ _ h]

theorem readNth_ok {d : Bytes} (h : sectorReadable s off i ∧ sectorDecoded s off i = .ok d) : readNth s.job off i = .ok d :=
  (readNth_readable h.1).trans h.2

theorem readNth_error {x : Code} (h : (¬ sectorReadable s off i ∧ x = .ioError) ∨
    (sectorReadable s off i ∧ sectorDecoded s off i = .error x)) : readNth s.job off i = .error x := by
  obtain ⟨hw, rfl⟩ | ⟨hw, hd⟩ := h
  · exact readNth_unreadable hw
  · rw [readNth_readable hw, hd]

end

/-! ### What the file reads as -/

theorem operandError_none {s : State} (hexp : s.arg0.toNat ≤ 22) (husize : s.arg3.toNat ≤ s.cfg.bufBytes)
    (hexists : s.arg4 &&& 0x80000000 ≠ 0) (hdelete : s.arg4 &&& 0x02000000 = 0) : s.job.operandError = none := by
  rw [operandError_eq, if_neg (by omega), if_neg (by omega), if_neg (mt (hasBits_false_iff _ _).mp hexists),
    if_neg (mt (hasBits_iff _ _).mp (not_not.mpr hdelete))]

section
variable {s : State} (hfile : fileOperands s)
include hfile

theorem operandError_fileOperands : s.job.operandError = none := by
  obtain ⟨hexp, husize, hexists, hdelete, -⟩ := hfile
  exact operandError_none hexp husize hexists hdelete

theorem job_usize_ne_zero : s.job.usize ≠ 0 := by
  obtain ⟨-, -, -, -, hpos⟩ := hfile
  exact hpos.ne'

theorem readContents_singleUnit (hf : s.arg4 &&& 0x01000000 ≠ 0) :
    readContents s.job = readSector s.job s.arg5 s.arg1.toNat s.arg2.toNat s.arg3.toNat := by
  rw [readContents, if_neg (job_usize_ne_zero hfile), if_pos ((job_flagSingleUnit s).mpr hf), job_key, job_pos, job_csize, job_usize]

variable (hf : s.arg4 &&& 0x01000000 = 0)
include hf

theorem readContents_sectored : readContents s.job =
    (readOffsets s.job).bind fun off => readSectors s.job off (List.range (sectorCount s)) := by
  rw [readContents, if_neg (job_usize_ne_zero hfile), if_neg (mt (job_flagSingleUnit s).mp (not_not.mpr hf)),
    job_sectorCount]
  cases readOffsets s.job <;> rfl

theorem readContents_fileOffsets {off : List Nat} (h : fileOffsets s off) :
    readContents s.job = readSectors s.job off (List.range (sectorCount s)) := by
  rw [readContents_sectored hfile hf, readOffsets_of_fileOffsets h]
  rfl

theorem readContents_offsetsError {x : Code} (h : readOffsets s.job = .error x) : readContents s.job = .error x := by
  rw [readContents_sectored hfile hf, h]
  rfl

end

/-! ### RDFILE's outcome -/

section
variable {s : State} {x : Code} {out : Bytes}

theorem rdfile_operandError (h : s.job.operandError = some x) : failsOutput (exec .rdfile s) s x :=
  ⟨Units.cleared, by
    rw [exec, execRdfile, h]
    rfl⟩

theorem rdfile_error (hop : s.job.operandError = none) (h : readContents s.job = .error x) : failsOutput (exec .rdfile s) s x :=
  ⟨Units.cleared, by
    rw [exec, execRdfile_eq s hop, h]
    rfl⟩

/-- The final check of R250 never fails: what was read has the file's length. -/
theorem rdfile_ok (hop : s.job.operandError = none) (h : readContents s.job = .ok out) : outputs (exec .rdfile s) s s.arg3 out :=
  ⟨Units.cleared, Memory.ofBytes 0 out, by
    rw [exec, execRdfile_eq s hop, h]
    exact if_neg (not_not.mpr (readContents_length h)), Memory.read_ofBytes out 0⟩

end

/-! ### The obligations -/

/-- Settles O53: the four checks in their order. -/
theorem rdfileOperandErrors : Obligations.RdfileOperandErrors := by
  refine fun s => ⟨fun hexp => ?_, fun hexp husize => ?_, fun hexp husize hexists => ?_, fun hexp husize hexists hdelete => ?_⟩
  · exact rdfile_operandError (by rw [operandError_eq, if_pos hexp])
  · exact rdfile_operandError (by rw [operandError_eq, if_neg (by omega), if_pos husize])
  · exact rdfile_operandError (by
      rw [operandError_eq, if_neg (by omega), if_neg (by omega), if_pos ((hasBits_false_iff _ _).mpr hexists)])
  · exact rdfile_operandError (by
      rw [operandError_eq, if_neg (by omega), if_neg (by omega), if_neg (mt (hasBits_false_iff _ _).mp hexists),
        if_pos ((hasBits_iff _ _).mpr hdelete)])

/-- Settles O54: nothing is read, and nothing has the length of an empty file. -/
theorem rdfileEmptyFile : Obligations.RdfileEmptyFile := by
  intro s hexp hempty hexists hdelete
  have hop : s.job.operandError = none := operandError_none hexp (by simp [hempty]) hexists hdelete
  have hread : readContents s.job = .ok [] := if_pos (by simp [hempty])
  exact hempty ▸ rdfile_ok hop hread

/-- Settles O55: the one sector is the file. -/
theorem rdfileSingleUnit : Obligations.RdfileSingleUnit := by
  intro s hfile hf
  have hop := operandError_fileOperands hfile
  have hread := readContents_singleUnit hfile hf
  refine ⟨fun hw => rdfile_error hop ?_, fun hw => ⟨fun out hd => rdfile_ok hop ?_, fun x hd => rdfile_error hop ?_⟩⟩
  · rw [hread, readSector_not_readsWell _ _ hw]
  · rw [hread, readSector_readsWell _ _ hw, hd]
  · rw [hread, readSector_readsWell _ _ hw, hd]

/-- Settles O56: the stored length is the expected one, so the decoder returns the source's bytes. -/
theorem rdfileStoredFile : Obligations.RdfileStoredFile := by
  intro s hfile hf henc heq hin hmem
  have hw : readsWell s s.arg1.toNat s.arg2.toNat := .inr (heq ▸ ⟨hin, hmem⟩)
  have hlen : (slice s s.arg1.toNat s.arg3.toNat).length = s.arg3.toNat := by
    rw [slice, List.length_take, List.length_drop]
    omega
  obtain ⟨hok, -⟩ := (rdfileSingleUnit s hfile hf).2 hw
  refine hok _ ?_
  rw [heq, decrypted, if_neg (not_not.mpr henc)]
  exact decodeSector_stored hlen _ _

/-- Settles O57: every sector reads as its piece, so the loop appends the pieces. -/
theorem rdfileSectoredFile : Obligations.RdfileSectoredFile := by
  intro s off piece hfile hf hoff hsectors
  refine rdfile_ok (operandError_fileOperands hfile) ?_
  rw [readContents_fileOffsets hfile hf hoff]
  exact readSectors_ok fun i hi => readNth_ok (hsectors i (List.mem_range.mp hi))

/-- Settles O58: the loop gets as far as sector `k`, and its error ends it. -/
theorem firstFailingSectorEnds : Obligations.FirstFailingSectorEnds := by
  intro s off k x piece hfile hf hoff hk hbefore hfails
  obtain ⟨rest, hrange⟩ := range_eq_append_cons hk
  refine rdfile_error (operandError_fileOperands hfile) ?_
  rw [readContents_fileOffsets hfile hf hoff, hrange]
  exact readSectors_error (fun i hi => readNth_ok (hbefore i (List.mem_range.mp hi))) (readNth_error hfails) rest

/-- Settles O59: no sector is read where the offsets cannot be had. -/
theorem implausibleTableIsAnError : Obligations.ImplausibleTableIsAnError := by
  intro s hfile hf htab
  have hop := operandError_fileOperands hfile
  refine ⟨fun hw => rdfile_error hop ?_, fun hw hoff => rdfile_error hop ?_⟩
  · exact readContents_offsetsError hfile hf (readOffsets_unreadable htab hw)
  · exact readContents_offsetsError hfile hf (readOffsets_implausible htab hw hoff)

end Sys2Proof.Machine
end

section
/-! PROOFS. How commands end: the codes, what an error changes, the illegal words and the interrupt output (60_exceptions.md R281 to
R283, R286, R290). -/

namespace Sys2Proof.Machine

open Sys2Proof.Claims

/-! ### The codes a command ends with (60_exceptions.md R286) -/

theorem ok_mem_endCodes (i : Instr) : .ok ∈ endCodes i := by
  cases i <;> decide

theorem illegalCommand_notMem_endCodes (i : Instr) : .illegalCommand ∉ endCodes i := by
  cases i <;> decide

/-- A command ends with a code of its row of the table. -/
theorem Ends.err_mem {i : Instr} {s t : State} (h : Ends i s t) : t.status.err ∈ endCodes i := by
  cases h with
  | error k _ hi => exact hi
  | results => exact ok_mem_endCodes i
  | output => exact ok_mem_endCodes i

/-- A state from which every command that can end with the code does end with it. The flag words say of a file that it exists
(0x80000000), is a single unit (0x01000000), is deleted (0x02000000), is compressed (0x00000200); 0x01 is no codec byte. -/
def endsIn : Code → State
  | .ok => { State.reset with arg4 := 0x80000000 }
  | .decodeError => { State.reset with arg3 := 1, arg4 := 0x81000000 }
  | .unsupportedCodec =>
    { State.reset with arg0 := 1, arg2 := 1, arg3 := 2, arg4 := 0x81000200, ibuf := [(0, 0x01)], src := [0x01] }
  | .ioError => { State.reset with arg2 := 1, arg3 := 1, arg4 := 0x81000000 }
  | .absent | .illegalCommand => State.reset
  | .deleted => { State.reset with arg4 := 0x82000000 }
  | .badArgument => { State.reset with arg0 := 4097 }
  | .outputOverflow => { State.reset with arg3 := 4097 }

/-- The code in STATUS of the state an outcome answers, if it answers one. -/
def codeOf : Result → Option Code
  | .next t => some t.status.err
  | .fault _ | .refused _ => none

theorem codeOf_eq_some {o : Result} {c : Code} (h : codeOf o = some c) : ∃ t, o = .next t ∧ t.status.err = c := by
  cases o with
  | next t => exact ⟨t, rfl, Option.some.inj h⟩
  | fault | refused => cases h

theorem codeOf_exec_endsIn (i : Instr) : ∀ c ∈ endCodes i, codeOf (exec i (endsIn c)) = some c := by
  cases i <;> decide

/-- Settles O28: a command's end has a code of its row, and `endsIn` reaches each code of the row. -/
theorem endCodesAreExact : Obligations.EndCodesAreExact := by
  intro i c
  constructor
  · rintro ⟨s, t, h, rfl⟩
    exact (exec_ends i s t h).err_mem
  · exact fun hc => ⟨endsIn c, codeOf_eq_some (codeOf_exec_endsIn i c hc)⟩

/-! ### Illegal words (60_exceptions.md R282) -/

/-- The decoder accepts every word that is not illegal (30_encoding.md R91). -/
theorem decodeWord_legal {v : Word} (h : ¬ illegalWord v) : ∃ i, decodeWord v = .ok i := by
  obtain ⟨hrsvd, -⟩ | ⟨-, hopc, -⟩ | ⟨-, -, hkind, -⟩ | ⟨-, -, -, i, hi, -⟩ := decodeFields_cases (fieldsOf v)
  · exact absurd (.inl hrsvd) h
  · exact absurd (.inr (hopc.imp Nat.lt_one_iff.mpr .inl)) h
  · exact absurd (.inr (.inr (.inr hkind))) h
  · exact ⟨i, hi⟩

/-- Settles O5: the decoder accepts exactly the legal words, and no command's row of the table has ILLEGAL_COMMAND. -/
theorem illegalCommandComesOnlyFromDecode : Obligations.IllegalCommandComesOnlyFromDecode := by
  refine ⟨fun s hb hs => ?_, fun i s t h herr => ?_⟩
  · obtain ⟨hrun, hfail⟩ := step_runs hb hs
    refine ⟨hfail, fun hlegal => ?_⟩
    obtain ⟨i, hi⟩ := decodeWord_legal hlegal
    exact ⟨i, hi, hrun i hi⟩
  · exact illegalCommand_notMem_endCodes i (herr ▸ (exec_ends i s t h).err_mem)

/-! ### The effect of an error (60_exceptions.md R281) -/

/-- Completion with an error sets ERRSEEN, whatever it was. -/
theorem Status.completed_error {k : Code} (h : k ≠ .ok) (st : Status) :
    st.completed k = { busy := false, done := true, err := k, errSeen := true, overrun := st.overrun } := by
  simp [Status.completed, h]

/-- A command that ends with an error changes STATUS, the units, and OBUF if it writes OBUF. -/
theorem Ends.errorEffect {i : Instr} {s t : State} (h : Ends i s t) (herr : t.status.err ≠ .ok) :
    t = { s with
      status := { busy := false, done := true, err := t.status.err, errSeen := true, overrun := s.status.overrun }
      units := t.units, obuf := if writesObuf i then [] else s.obuf } := by
  cases h with
  | error k hk => rw [State.complete_status, Status.completed_err, ← Status.completed_error hk]; rfl
  | results => exact absurd rfl herr
  | output => exact absurd rfl herr

/-- Settles O25: the frame of an error keeps the results, which acceptance has cleared. -/
theorem errorEffect : Obligations.ErrorEffect := by
  refine ⟨fun i s t h herr => (exec_ends i s t h).errorEffect herr, fun i s t v h herr => ?_⟩
  rw [(exec_ends i _ t h).errorEffect herr]
  exact ⟨rfl, rfl, rfl⟩

/-! ### The interrupt output (60_exceptions.md R290) -/

/-- However a command completes, it sets DONE and keeps CTRL. -/
theorem Ends.irq_eq {i : Instr} {s t : State} (h : Ends i s t) : t.irq = s.ctrl.ie := by
  cases h <;> rfl

theorem coreStep_irq_eq {s t : State} (h : coreStep s = .next t) : t.irq = s.ctrl.ie := by
  obtain ⟨i, -, -, he⟩ | ⟨e, -, rfl⟩ := coreStep_cases s t h
  · exact he.irq_eq
  · rfl

theorem State.irq_of_done_eq_false {s : State} (h : s.status.done = false) : s.irq = false := by
  rw [State.irq, h, Bool.false_and]

theorem State.irq_of_ie_eq_false {s : State} (h : s.ctrl.ie = false) : s.irq = false := by
  rw [State.irq, h, Bool.and_false]

/-- Settles O15: a completion sets DONE; the write of STATUS and the acceptance clear it, the write of CTRL clears IE. -/
theorem interruptFollowsCompletion : Obligations.InterruptFollowsCompletion := by
  refine ⟨fun s => rfl, fun i s t h => (exec_ends i s t h).irq_eq, fun s t hb hs h => ?completion, fun s v q h hv => ?ack,
    fun s v q h hv => ?disable, fun s v q h hb => ?acceptance, rfl⟩
  case completion => exact coreStep_irq_eq ((step_busy s hb hs).symm.trans h)
  case ack =>
    refine ⟨_, step_write_register h (by decide) (by decide), State.irq_of_done_eq_false ?_⟩
    exact (Status.written_done s.status v).trans (by rw [hv, Bool.not_true, Bool.and_false])
  case disable => exact ⟨_, step_write_register h (by decide) (by decide), State.irq_of_ie_eq_false hv⟩
  case acceptance => exact ⟨_, step_write_idle hb h (.inl rfl) rfl, State.irq_of_done_eq_false rfl⟩

end Sys2Proof.Machine
end

section
/-! PROOFS. Reset and hazards: the sticky bits of STATUS, that commands complete, and the reset input during a command
(70_reset_and_hazards.md R320, R328). -/

namespace Sys2Proof.Machine

/-! ### The sticky bits (10_state.md R26) -/

/-- ERRSEEN and OVERRUN, where they are set in `st`, are set in `st'`. -/
def Status.StickyKept (st st' : Status) : Prop :=
  (st.errSeen = true → st'.errSeen = true) ∧ (st.overrun = true → st'.overrun = true)

theorem Status.stickyKept_refl (st : Status) : st.StickyKept st := ⟨id, id⟩

theorem Status.stickyKept_completed (st : Status) (k : Code) : st.StickyKept (st.completed k) :=
  ⟨fun he => by rw [Status.completed_errSeen, he, Bool.true_or], id⟩

theorem Status.stickyKept_dropped (st : Status) : st.StickyKept st.dropped := ⟨id, fun _ => rfl⟩

/-- Of STATUS, a host write reaches DONE alone. -/
theorem Status.stickyKept_written (st : Status) (v : Word) : st.StickyKept (st.written v) :=
  ⟨(Status.written_errSeen st v).trans, (Status.written_overrun st v).trans⟩

/-- No host write clears a sticky bit: it may write STATUS, set OVERRUN or start a command. -/
theorem Writes.stickyKept {s t : State} (h : Writes s t) : s.status.StickyKept t.status := by
  cases h with
  | dropped => exact s.status.stickyKept_dropped
  | status v => exact s.status.stickyKept_written v
  | accepted => exact ⟨id, id⟩
  | busError | ignored | ctrl | args | ibuf => exact s.status.stickyKept_refl

/-- Settles O18: a completion and a host write keep the sticky bits, and every other step but reset leaves STATUS alone. -/
theorem onlyResetClearsTheStickyBits : Obligations.OnlyResetClearsTheStickyBits := by
  intro s t h hreset
  change s.status.StickyKept t.status
  cases step_steps s t h with
  | core q t _ hc =>
    obtain ⟨k, hk, -⟩ := coreStep_completes hc
    rw [hk]
    exact s.status.stickyKept_completed k
  | read q off w =>
    obtain ⟨r, l, d, he⟩ := busRead_frame off w { s with sched := q }
    rw [he]
    exact s.status.stickyKept_refl
  | write q t hw => exact hw.stickyKept
  | reset q hq => exact absurd hq (hreset q)
  | idle | attach => exact s.status.stickyKept_refl

/-! ### Every command completes (70_reset_and_hazards.md R328) -/

/-- The fault of an unwritten byte is the only fault there is, so an outcome without it answers a next state. -/
theorem FaultsIff.completes {o : Result} {p : Prop} (h : FaultsIff o p) (hp : ¬ p) : ∃ t, o = .next t := by
  obtain ⟨hfault, hrefused⟩ := h
  cases o with
  | next t => exact ⟨t, rfl⟩
  | fault r => cases r; exact absurd (hfault.mp rfl) hp
  | refused r => exact absurd rfl (hrefused r)

/-- Settles O29: the operand checks keep a command's input inside IBUF, where every byte is written. -/
theorem everyCommandCompletes : Obligations.EveryCommandCompletes := by
  intro i s hwritten
  refine (exec_faultsIff i s).completes ?_
  rintro ⟨⟨hlen, -⟩, a, ha, hnone⟩
  have hsome := hwritten a (Nat.lt_of_lt_of_le ha hlen)
  rw [hnone] at hsome
  cases hsome

/-! ### The reset input (70_reset_and_hazards.md R320) -/

/-- Reset leaves BUSY and DONE clear: a command it ends wrote no status. -/
theorem commandEnd_resetCore {s : State} (hb : s.status.busy = true) (u : State) :
    commandEnd s u.resetCore = some .abandoned := by
  simp [commandEnd, hb, Status.cleared]

theorem Status.cleared_toWord : Status.cleared.toWord = 0 := by decide

theorem Ctrl.cleared_toWord : Ctrl.toWord { ie := false } = 0 := by decide

/-- Settles O17: the step is `resetCore`, field by field. -/
theorem resetAbandonsTheCommand : Obligations.ResetAbandonsTheCommand := by
  intro s q h
  refine ⟨_, step_reset s q h, rfl, ?status, ?ctrl, rfl, rfl, fun a => ⟨rfl, rfl⟩, rfl, rfl, rfl, fun hb => ?ended⟩
  case status => rw [State.resetCore_status, Status.cleared_toWord]
  case ctrl => rw [State.resetCore_ctrl, Ctrl.cleared_toWord]
  case ended => exact commandEnd_resetCore hb _

end Sys2Proof.Machine
end
